-- ==== Sys2Proof/Word.lean ====
section
/-! DEFINITION. The word types of the VH-2640 and the one way the model writes a place of a fixed table. -/

namespace Sys2Proof

/-- A word of sample memory: 32 bits (terms table of 00_scope.md). -/
abbrev Word := BitVec 32

/-- A byte address of the system port or the memory port: 32 bits (electrical interface, 00_scope.md). -/
abbrev Addr := BitVec 32

/-- A byte of the control region. -/
abbrev Byte := BitVec 8

/-- The four byte enables of one word; bit n stands for byte n (R1). -/
abbrev Enables := BitVec 4

/-- A table with place `i` replaced by `x`. -/
def setAt {α : Type} {n : Nat} (v : Vector α n) (i : Fin n) (x : α) : Vector α n :=
  v.set i x

end Sys2Proof
end

