-- ==== Sys2Proof/Config.lean ====
section
/-! DEFINITION. What the manual fixes for every VH-2640, and the values it leaves open. -/

namespace Sys2Proof.Config

/-- Unity of the gain codes (R4). -/
def unity : Nat := 16384

/-- Every counter of the part stops here (conventions of 00_scope.md). -/
def counterTop : Nat := 65535

/-- The part code shown in the status block (R155). -/
def partCode : Nat := 0x2640

/-- The revision shown in the status block (R155). -/
def revision : Nat := 1

/-- The part's own master number at the memory port and in fault records (00_scope.md, R16). -/
def ownNumber : Nat := 16

/-- Places of each master's queue at the system port (R25). -/
def queuePlaces : Nat := 4

/-- Places of the translation queue (R40). -/
def translationPlaces : Nat := 8

/-- Places of the map cache (R37). -/
def cachePlaces : Nat := 8

/-- Records of the event ring (R173). -/
def ringPlaces : Nat := 64

/-- Length of the control region in bytes (R153). -/
def regionBytes : Nat := 0x4000

/-- Ticks for which the incident line must hold a level before it qualifies (R140). -/
def qualificationTicks : Nat := 10000

/-- Ticks in a millisecond (conventions of 00_scope.md). -/
def ticksPerMs : Nat := 1000

/-- Protected writes of one master after which it is barred (R150). -/
def barringCount : Nat := 8

/-- Bursts of the image write-out (R166). -/
def imageBursts : Nat := 80

/-- DESIGN CHOICE (log 21), safe: the byte that a part-owned field shows while the optional item it belongs to is
"none" and the manual states no coding for that byte. The argument is the byte's offset in its record. -/
opaque noneByte : Nat → Byte

end Sys2Proof.Config
end

