-- ==== Sys2Proof/Syntax.lean ====
section
/-! DEFINITION. The commands of the VH-2640: one constructor for each row of spec/opcode_table.json, and the accesses and
answers they carry. -/

namespace Sys2Proof

/-- The direction of an access (R16). -/
inductive Dir where
  | read
  | write
  deriving DecidableEq, Repr

/-- One access as a master presents it at the system port (R16): master number, direction, byte address, four byte
enables for each of its words and, for a write, the data of each word. Its length is the number of byte-enable groups. -/
structure Access where
  master : Fin 16
  dir : Dir
  addr : Addr
  be : List Enables
  data : List Word
  deriving DecidableEq, Repr

/-- The number of words of an access (R16). -/
def Access.len (a : Access) : Nat := a.be.length

/-- The memory's answer to an access at the memory port: OK or ERROR, with the data of a read (R17). -/
structure Answer where
  ok : Bool
  data : List Word
  deriving DecidableEq, Repr

/-- The commands. Each stands for one row of the table of operations and events; its docstring names the row.
A command with a `master` operand acts on the access that this master has in service. -/
inductive Instr where
  /-- HARD_RESET: the reset pin goes low, or power comes up. -/
  | hardReset
  /-- IMAGE_WRITE_OUT_BURST_ANSWER: the memory answers burst `burst` of the image write-out. -/
  | imageWriteOutBurstAnswer (burst : Fin 80) (ok : Bool)
  /-- SOFT_RESET: the handed-over control-region write of `master` carries a soft-reset request. -/
  | softReset (master : Fin 16)
  /-- ACCESS_REQUEST: a master presents an access at the system port. -/
  | accessRequest (access : Access)
  /-- ACCESS_TAKEN_FOR_SERVICE: the oldest queued access of `master` is taken for service. -/
  | accessTakenForService (master : Fin 16)
  /-- UNWINDOWED_ACCESS -/
  | unwindowedAccess (master : Fin 16)
  /-- UPLINK_WRITE -/
  | uplinkWrite (master : Fin 16)
  /-- DEADLINE_EXPIRY: the deadline timer of slot `slot` expires. -/
  | deadlineExpiry (slot : Fin 16)
  /-- FLUSH_BURST_ANSWER: the memory answers burst `burst` of the flush of slot `slot`. -/
  | flushBurstAnswer (slot : Fin 16) (burst : Fin 16) (ok : Bool)
  /-- UPLINK_READ -/
  | uplinkRead (master : Fin 16)
  /-- DOWNLINK_WRITE -/
  | downlinkWrite (master : Fin 16)
  /-- DOWNLINK_READ -/
  | downlinkRead (master : Fin 16)
  /-- TALKTHROUGH_SOURCE_ANSWER: the memory answers the source read made for `master`'s talkthrough read. -/
  | talkthroughSourceAnswer (master : Fin 16) (answer : Answer)
  /-- PROGRAM_WRITE -/
  | programWrite (master : Fin 16)
  /-- PROGRAM_READ -/
  | programRead (master : Fin 16)
  /-- CLIP_READ_ANSWER: the memory answers the clip read issued beside `master`'s programme read. -/
  | clipReadAnswer (master : Fin 16) (answer : Answer)
  /-- MEMORY_ACCESS_ANSWER: the memory answers the access issued on `master`'s behalf. -/
  | memoryAccessAnswer (master : Fin 16) (answer : Answer)
  /-- TRANSLATION_QUEUE_JOIN: the oldest request waiting for a place joins the translation queue. -/
  | translationQueueJoin
  /-- MAP_FETCH_ISSUE -/
  | mapFetchIssue
  /-- MAP_FETCH_COMPLETE: the memory answers the map fetch in flight with `entry`, or with ERROR. -/
  | mapFetchComplete (ok : Bool) (entry : Word)
  /-- CONTROL_REGION_READ -/
  | controlRegionRead (master : Fin 16)
  /-- CONTROL_REGION_WRITE -/
  | controlRegionWrite (master : Fin 16)
  /-- WINDOW_ENABLE -/
  | windowEnable (master : Fin 16)
  /-- WINDOW_DISABLE -/
  | windowDisable (master : Fin 16)
  /-- SERVICE_ENABLE -/
  | serviceEnable (master : Fin 16)
  /-- SERVICE_DISABLE -/
  | serviceDisable (master : Fin 16)
  /-- SEGMENT_ENABLE -/
  | segmentEnable (master : Fin 16)
  /-- SEGMENT_DISABLE -/
  | segmentDisable (master : Fin 16)
  /-- ZONE_TIMING_SERVICE_WRITE -/
  | zoneTimingServiceWrite (master : Fin 16)
  /-- ACTIVITY_TIMER_EXPIRY: the activity timer of a segment expires. Segment s is numbered s − 1 here. -/
  | activityTimerExpiry (segment : Fin 12)
  /-- SEGMENT_EXCLUSION_HANDOVER: the Supervisor takes a hand-over of the segment. -/
  | segmentExclusionHandover (segment : Fin 12)
  /-- DEPARTURE_NOTICE: the Combiner takes the segment's departure notice. -/
  | departureNotice (segment : Fin 12)
  /-- CUE_START -/
  | cueStart (master : Fin 16)
  /-- CUE_STOP -/
  | cueStop (master : Fin 16)
  /-- INCIDENT_LINE_CHANGE: the raw level of the incident line becomes `high`. -/
  | incidentLineChange (high : Bool)
  /-- QUALIFICATION_TIMER_EXPIRY -/
  | qualificationTimerExpiry
  /-- LATCH_SET -/
  | latchSet (master : Fin 16)
  /-- LATCH_CLEAR -/
  | latchClear (master : Fin 16)
  /-- ACCESS_FAULT_CLEAR -/
  | accessFaultClear (master : Fin 16)
  /-- MEMORY_FAULT_CLEAR -/
  | memoryFaultClear (master : Fin 16)
  /-- EVENT_CONSUMER_INDEX_WRITE -/
  | eventConsumerIndexWrite (master : Fin 16)
  /-- MISS_LIMIT_WRITE -/
  | missLimitWrite (master : Fin 16)
  /-- EVENT_ENABLE_MASK_WRITE -/
  | eventEnableMaskWrite (master : Fin 16)
  /-- EVENT_WRITE_ISSUE -/
  | eventWriteIssue
  /-- EVENT_WRITE_ANSWER: the memory answers the event write in flight. -/
  | eventWriteAnswer (ok : Bool)
  /-- WRITE_BACK_START -/
  | writeBackStart
  /-- WRITE_BACK_BURST_ANSWER: the memory answers burst `burst` of the write-back in flight. -/
  | writeBackBurstAnswer (burst : Fin 2) (ok : Bool)
  /-- RESET_RELEASE: the reset pin is released; the operands are the levels of the base straps, the incident master
  straps and the timebase divider straps at that moment. -/
  | resetRelease (baseStraps : BitVec 8) (masterStraps : BitVec 4) (dividerStraps : BitVec 6)
  deriving DecidableEq, Repr

end Sys2Proof
end

