-- ==== Sys2Proof/Decode.lean ====
section
/-! DEFINITION. The command that a word spells. spec/opcode_table.json gives no row of this block any bits ("fields" is
empty in every row), so no word spells a command. -/

namespace Sys2Proof

/-- The command spelled by the `nbits` bits `w`: none, since no row of the table gives bits. -/
def decodeTableWord (_nbits _w : Nat) : Option Instr := none

end Sys2Proof
end

