-- ==== Sys2Proof/WellFormed.lean ====
section
/-! DEFINITION. Which accesses the system port can carry (R16), and so which commands are well formed. -/

namespace Sys2Proof

/-- R16: the address of an access is word-aligned. -/
def Access.aligned (a : Access) : Bool := a.addr.toNat % 4 == 0

/-- R16: an access is 1 to 16 words long. -/
def Access.lengthFits (a : Access) : Bool := 1 ≤ a.be.length && a.be.length ≤ 16

/-- R16: a write carries the data of each of its words, a read carries none. -/
def Access.dataFits (a : Access) : Bool :=
  match a.dir with
  | .write => a.data.length == a.be.length
  | .read => a.data.length == 0

/-- The access is one that the system port can carry (R16). -/
def Access.wellFormed (a : Access) : Bool := a.aligned && a.lengthFits && a.dataFits

/-- A command is well formed when the access it presents is; every other operand is bounded by its type. -/
def Instr.wellFormed : Instr → Bool
  | .accessRequest a => a.wellFormed
  | .hardReset | .imageWriteOutBurstAnswer _ _ | .softReset _ | .accessTakenForService _ | .unwindowedAccess _
  | .uplinkWrite _ | .deadlineExpiry _ | .flushBurstAnswer _ _ _ | .uplinkRead _ | .downlinkWrite _ | .downlinkRead _
  | .talkthroughSourceAnswer _ _ | .programWrite _ | .programRead _ | .clipReadAnswer _ _ | .memoryAccessAnswer _ _
  | .translationQueueJoin | .mapFetchIssue | .mapFetchComplete _ _ | .controlRegionRead _ | .controlRegionWrite _
  | .windowEnable _ | .windowDisable _ | .serviceEnable _ | .serviceDisable _ | .segmentEnable _ | .segmentDisable _
  | .zoneTimingServiceWrite _ | .activityTimerExpiry _ | .segmentExclusionHandover _ | .departureNotice _ | .cueStart _
  | .cueStop _ | .incidentLineChange _ | .qualificationTimerExpiry | .latchSet _ | .latchClear _ | .accessFaultClear _
  | .memoryFaultClear _ | .eventConsumerIndexWrite _ | .missLimitWrite _ | .eventEnableMaskWrite _ | .eventWriteIssue
  | .eventWriteAnswer _ | .writeBackStart | .writeBackBurstAnswer _ _ | .resetRelease _ _ _ => true

end Sys2Proof
end

