-- ==== Sys2Proof/Machine/Types.lean ====
section
/-! DEFINITION. The pieces of the VH-2640's state: the records of the control region as the part holds them, the accesses
in service, and what each block keeps. All plain data. -/

namespace Sys2Proof.Machine

/-! ## Windows and accesses -/

/-- What a window carries (R24). -/
inductive Role where
  | uplink
  | downlink
  | program
  deriving DecidableEq, Repr

/-- The window, role, service, frame index and word offset that the Classifier finds for a sample-window access
(R18, R2). -/
structure WinHit where
  window : Fin 16
  role : Role
  service : Fin 8
  frame : Nat
  offset : Nat
  deriving DecidableEq, Repr

/-- The class of an access (R18). -/
inductive Cls where
  | control
  | window (hit : WinHit)
  | unwindowed
  deriving DecidableEq, Repr

/-- One access as it stands at the memory port (R16): the master number it carries (16 for the part's own), direction,
address, byte enables and write data. -/
structure MemAccess where
  number : Nat
  dir : Dir
  addr : Addr
  be : List Enables
  data : List Word
  deriving DecidableEq, Repr

/-- A response given at the system port (R17). -/
structure Response where
  master : Fin 16
  ok : Bool
  data : List Word
  deriving DecidableEq, Repr

/-- The records that can stand on the write-back list (R153, R159). Segment s is numbered s − 1. -/
inductive RecordId where
  | status
  | accessFault
  | memoryFault
  | window (w : Fin 16)
  | service (v : Fin 8)
  | segment (g : Fin 12)
  | zone (z : Fin 8)
  | cue (c : Fin 32)
  | slot (n : Fin 16)
  deriving DecidableEq, Repr

/-- The mix values attached to a programme read at its judgement (R133): the clip frame address if the record carries a
cue, the duck gain and the insertion gain. -/
structure MixValues where
  clip : Option Addr
  gd : Nat
  gi : Nat
  deriving DecidableEq, Repr

/-- How the data of an access is treated: unchanged, equalised with a captured gain (R84), served from a talkthrough
source frame (R86 to R88, with the downlink service read, the source window and the source frame), or mixed (R133). -/
inductive Treatment where
  | plain
  | equalise (gain : Nat)
  | talkthrough (gain : Nat) (down : Fin 8) (source : Fin 16) (frame : Nat)
  | mix (values : MixValues)
  deriving DecidableEq, Repr

/-- The clip read beside a mixed read (R134, R135). -/
inductive ClipRead where
  /-- none is needed, or it could not be issued or failed: the clip term is 0 -/
  | absent
  /-- issued and not answered -/
  | issued (port : MemAccess)
  /-- answered OK -/
  | answered (data : List Word)
  deriving DecidableEq, Repr

/-- An access issued to memory on a master's behalf and not yet answered at the system port. -/
structure Issue where
  /-- the window hit it was classified with; none for control-region and unwindowed accesses -/
  hit : Option WinHit
  port : MemAccess
  treat : Treatment
  /-- the memory's answer to a programme read whose clip read is still out (R133) -/
  answer : Option Answer
  clip : ClipRead
  /-- for a control-region write: the records whose host-owned bytes this write made the part change (R160) -/
  changed : List RecordId
  deriving DecidableEq, Repr

/-- How far the access in service of a master has gone (R25, R26). -/
inductive Stage where
  /-- the oldest access, if there is one, has not been taken for service -/
  | waiting
  /-- classified and checked; its block has not treated it yet -/
  | taken (cls : Cls)
  /-- a control-region access held by the image write-out (R26) -/
  | heldWriteOut
  /-- a control-region write held by the write-back in flight (R160) -/
  | heldWriteBack
  /-- a control-region read held until a write-back of each listed record, as often as listed, completes (R162) -/
  | heldRecords (records : List RecordId)
  /-- an UPLINK read held under HOLD on a slot (R75) -/
  | heldSlot (slot : Fin 16) (hit : WinHit)
  /-- an UPLINK write waiting on a pending allocation (R55) -/
  | heldPending (hit : WinHit)
  /-- waiting for a place in, or standing in, the translation queue (R40); `own` is set when the read will carry the
  part's own number (R16) -/
  | translating (hit : WinHit) (treat : Treatment) (own : Bool)
  /-- at the memory port -/
  | issued (i : Issue)
  deriving DecidableEq, Repr

/-- One master at the system port: its queue, oldest access first, and how far the oldest has gone (R25). -/
structure MasterPort where
  queue : List Access
  stage : Stage
  deriving DecidableEq, Repr

/-- What the part does of itself before any other command acts (R25, R26; log 6): it takes the oldest access of a master
for service, or hands the taken access of a master on to its block. -/
inductive Due where
  | take (m : Fin 16)
  | hand (m : Fin 16)
  deriving DecidableEq, Repr

/-- A window entry (2.6): the host-owned fields of the copy, the part-owned fields, and the translation captured at the
start of retirement (R30): MAPPED or not, with the translated base or map base. -/
structure WindowEntry where
  enable : Bool
  roleCode : Byte
  service : Fin 8
  size : Nat
  base : Addr
  mapped : Bool
  target : Addr
  retiring : Bool
  horizon : Option Nat
  captured : Option (Bool × Addr)
  deriving DecidableEq, Repr

/-! ## Frame Translator -/

/-- Who waits for a translation (R36): the access in service of a master, or the flush of a slot. -/
inductive Owner where
  | master (m : Fin 16)
  | flush (slot : Fin 16)
  deriving DecidableEq, Repr

/-- A request that missed the map cache (R40). `own` marks a request of the part's own: a flush or a talkthrough read. -/
structure TransReq where
  owner : Owner
  window : Fin 16
  frame : Nat
  mapAddr : Addr
  own : Bool
  deriving DecidableEq, Repr

/-- An entry of the map cache (R37). -/
structure CacheEntry where
  window : Fin 16
  frame : Nat
  phys : Addr
  deriving DecidableEq, Repr

/-- The map fetch in flight (R41): the request it was issued for, and whether it is marked for discard (R44, R48). -/
structure MapFetch where
  request : TransReq
  discard : Bool
  deriving DecidableEq, Repr

/-- The write that holds a snoop hazard (R43): a master's access in service, or a burst of a slot's flush. -/
inductive HazardSource where
  | master (m : Fin 16)
  | flush (slot : Fin 16) (burst : Fin 16)
  deriving DecidableEq, Repr

/-- A map entry address under a snoop hazard (R43). -/
structure Hazard where
  addr : Addr
  source : HazardSource
  deriving DecidableEq, Repr

/-! ## Services and segments -/

/-- A service entry (R155): the host-owned fields, then the part-owned counters of R78 and R92 and the last combined
power index. `program` is the kind (0 RADIO, 1 PROGRAM), `through` the read policy (0 HOLD, 1 THROUGH). -/
structure ServiceEntry where
  enable : Bool
  program : Bool
  rescue : Bool
  through : Bool
  deadline : Nat
  holdFrames : Nat
  talkthrough : Bool
  openThreshold : Nat
  closeThreshold : Nat
  source : Fin 8
  offset : Nat
  breakIn : Bool
  complete : Nat
  short : Nat
  evictions : Nat
  saturated : Nat
  underruns : Nat
  flushErrors : Nat
  lastPower : Nat
  deriving DecidableEq, Repr

/-- The state of a segment (R96). -/
inductive SegState where
  | offline
  | active
  | stalled
  | excluded
  deriving DecidableEq, Repr

/-- A noise gate (R10): OPEN or CLOSED, with its hold counter. -/
structure Gate where
  isOpen : Bool
  hold : Nat
  deriving DecidableEq, Repr

/-- A segment entry (6.1) with the segment's activity timer: the tick at which it expires, none while it is off or
stopped (R99). -/
structure SegmentEntry where
  enable : Bool
  zone : Fin 8
  stallTimeout : Nat
  uplinkServices : BitVec 8
  downlinkGain : Nat
  uplinkGain : Nat
  state : SegState
  consecutive : Nat
  total : Nat
  lateWrites : Nat
  sequenceErrors : Nat
  lagReads : Nat
  offlineAccesses : Nat
  gates : Vector Gate 8
  timer : Option Nat
  deriving DecidableEq, Repr

/-! ## Break-in -/

/-- A frame record (R123). -/
structure FrameRecord where
  frame : Nat
  cue : Option (Fin 32)
  clip : Addr
  gd : Nat
  gi : Nat
  deriving DecidableEq, Repr

/-- A zone's active cue with its frames played k (7.2). -/
structure ActiveCue where
  cue : Fin 32
  k : Nat
  deriving DecidableEq, Repr

/-- An entry of a zone's suspend stack (7.2). -/
structure StackEntry where
  cue : Fin 32
  level : Nat
  k : Nat
  deriving DecidableEq, Repr

/-- A zone record (7.2). The suspend stack is held top first; the control region shows it bottom first. -/
structure ZoneRecord where
  timing : Fin 8
  ramp : Nat
  mask : Nat
  active : Option ActiveCue
  stack : List StackEntry
  gd : Nat
  current : Option FrameRecord
  previous : Option FrameRecord
  deriving DecidableEq, Repr

/-- The state of a cue (R113). -/
inductive CueState where
  | idle
  | queued
  | active
  | stopping
  deriving DecidableEq, Repr

/-- Cue end and refusal reasons (codes of R155). -/
inductive CueReason where
  | none
  | completed
  | stopped
  | cancelled
  | busy
  | noZone
  | level
  | tagClash
  deriving DecidableEq, Repr

/-- A cue entry (R112, R113): the host-owned fields but the request, which the part holds as NONE between writes (R114),
the state, the zones it waits in, the last end reason and the mark of stopped. The playing and suspended zones are read
off the zone records. -/
structure CueEntry where
  tag : Byte
  level : Nat
  zones : BitVec 8
  clip : Addr
  length : Nat
  repeats : Nat
  autoStart : Bool
  gi : Nat
  duck : Nat
  state : CueState
  waiting : BitVec 8
  lastEnd : CueReason
  stopped : Bool
  deriving DecidableEq, Repr

/-! ## Combine store -/

/-- The state of a combine slot (4.1). -/
inductive SlotState where
  | free
  | filling
  | flushing
  deriving DecidableEq, Repr

/-- The outcome of a slot, with the cause of a SHORT one (R49). -/
inductive SlotOutcome where
  | none
  | complete
  | deadline
  | evicted
  | retired
  deriving DecidableEq, Repr

/-- The state of a contribution record (R57). -/
inductive ContribState where
  | none
  | filling
  | done
  | broken
  deriving DecidableEq, Repr

/-- A contribution record (R57). -/
structure Contrib where
  state : ContribState
  next : Nat
  gated : Bool
  gain : Nat
  power : Nat
  deriving DecidableEq, Repr

/-- The two accumulators of one word offset (R7), or the two lanes of a word as exact integers. -/
structure Lanes where
  lo : Int
  hi : Int
  deriving DecidableEq, Repr

/-- The bursts of a flush at the memory port (R71, R72): the physical frame address, the bursts not answered yet, and
whether one has failed. -/
structure Flush where
  phys : Addr
  left : List (Fin 16)
  failed : Bool
  deriving DecidableEq, Repr

/-- A combine slot (R49). `timer` is the tick at which the running deadline timer expires, `held` the masters whose
reads are held on the slot in the order they began to wait, `flush` the bursts once the translation is given. -/
structure Slot where
  state : SlotState
  window : Fin 16
  frame : Nat
  service : Fin 8
  allocTick : BitVec 32
  deadlineTick : BitVec 32
  expected : List (Fin 12)
  contribs : Vector Contrib 12
  acc : List Lanes
  satCount : Nat
  outcome : SlotOutcome
  claimed : Bool
  timer : Option Nat
  held : List (Fin 16)
  flush : Option Flush
  deriving DecidableEq, Repr

/-- A pending allocation (R55): window, frame index, claimed slot, and the masters whose writes wait, in the order the
writes reached the Combiner. -/
structure PendingAlloc where
  window : Fin 16
  frame : Nat
  slot : Fin 16
  writers : List (Fin 16)
  deriving DecidableEq, Repr

/-- A flush burst issued before a soft reset and not yet answered (R81). -/
structure StaleBurst where
  slot : Fin 16
  burst : Fin 16
  port : MemAccess
  deriving DecidableEq, Repr

/-! ## Control Region Monitor -/

/-- The Monitor's copy of the request block (R165), but for the event consumer index, which is held once, as the index
in effect (R164). -/
structure RequestBlock where
  softReset : Byte
  latch : Byte
  accessClear : Byte
  memoryClear : Byte
  missLimit : Nat
  eventMask : BitVec 14
  deriving DecidableEq, Repr

/-- A record on the write-back list with the host-owned bytes to be written (R159), as offsets in the record. -/
structure ListedRecord where
  id : RecordId
  hostBytes : List Nat
  deriving DecidableEq, Repr

/-- The write-back in flight (R160, R161): its record, the host-owned bytes it writes, its bursts, the numbers of the
bursts not answered, whether one has failed, and whether a soft reset has made its answers void (R167). -/
structure WriteBack where
  id : RecordId
  hostBytes : List Nat
  bursts : List MemAccess
  left : List Nat
  failed : Bool
  dropped : Bool
  deriving DecidableEq, Repr

/-- The image write-out (R166): after which reset, the bursts not answered, whether one has failed, and the bytes that it
writes, held as they stood after the reset. -/
structure WriteOut where
  soft : Bool
  left : List Nat
  failed : Bool
  image : List Byte
  deriving DecidableEq, Repr

/-! ## Faults and events -/

/-- Fault kinds (R168). -/
inductive FaultKind where
  | unmapped
  | boundary
  | partialWord
  | role
  | protectedWrite
  | readError
  | writeError
  | mapError
  | flushError
  | clipError
  | writebackError
  deriving DecidableEq, Repr

/-- A fault record (R168). `kind` is none in an empty record, whose kind code reads 0. -/
structure FaultRecord where
  valid : Bool
  kind : Option FaultKind
  master : Nat
  addr : Addr
  window : Option (Fin 16)
  lost : Bool
  deriving DecidableEq, Repr

/-- Event kinds (R171). -/
inductive EventKind where
  | segmentStalled
  | segmentResumed
  | segmentExcluded
  | slotShort
  | slotEvicted
  | cueStarted
  | cueEnd
  | cueRefused
  | incidentEnter
  | incidentExit
  | fault
  | windowRefused
  | initDone
  | masterBarred
  deriving DecidableEq, Repr

/-- An event (R171): object, cue tag and reason as the codes of R155, and the low 32 bits of the timebase at the moment
it was raised. -/
structure Event where
  kind : EventKind
  object : Nat
  tag : Byte
  reason : Nat
  tick : BitVec 32
  deriving DecidableEq, Repr

end Sys2Proof.Machine
end

