-- ==== Sys2Proof/Machine/Layout.lean ====
section
/-! DEFINITION. The layout of the control region (R153 to R155): where each record lies, who owns each byte, the bytes of
each record, and reading a record's host-owned fields back from bytes with the normalisation of R158. -/

namespace Sys2Proof.Machine

/-! ## Codes of R155 -/

/-- The role named by a role code; other codes have no meaning (R155). -/
def roleOfCode (code : Byte) : Option Role :=
  if code = 1 then some .uplink
  else if code = 2 then some .downlink
  else if code = 3 then some .program
  else none

/-- Segment state codes (R155). -/
def SegState.code : SegState → Nat
  | .offline => 0
  | .active => 1
  | .stalled => 2
  | .excluded => 3

/-- Cue state codes (R155). -/
def CueState.code : CueState → Nat
  | .idle => 0
  | .queued => 1
  | .active => 2
  | .stopping => 3

/-- Cue reason codes (R155). -/
def CueReason.code : CueReason → Nat
  | .none => 0
  | .completed => 1
  | .stopped => 2
  | .cancelled => 3
  | .busy => 4
  | .noZone => 5
  | .level => 6
  | .tagClash => 7

/-- Slot state codes (R155). -/
def SlotState.code : SlotState → Nat
  | .free => 0
  | .filling => 1
  | .flushing => 2

/-- Slot outcome codes of the slot view (R155). -/
def SlotOutcome.code : SlotOutcome → Nat
  | .none => 0
  | .complete => 1
  | .deadline => 2
  | .evicted => 3
  | .retired => 4

/-- The SLOT_SHORT reason of an outcome (R155); 0 for an outcome that is not SHORT. -/
def SlotOutcome.shortReason : SlotOutcome → Nat
  | .none => 0
  | .complete => 0
  | .deadline => 1
  | .evicted => 2
  | .retired => 3

/-- Contribution state codes (R155). -/
def ContribState.code : ContribState → Nat
  | .none => 0
  | .filling => 1
  | .done => 2
  | .broken => 3

/-- Fault kind codes (R155). -/
def FaultKind.code : FaultKind → Nat
  | .unmapped => 0
  | .boundary => 1
  | .partialWord => 2
  | .role => 3
  | .protectedWrite => 4
  | .readError => 8
  | .writeError => 9
  | .mapError => 10
  | .flushError => 11
  | .clipError => 12
  | .writebackError => 13

/-- Event kind codes (R155, R171). -/
def EventKind.code : EventKind → Nat
  | .segmentStalled => 0
  | .segmentResumed => 1
  | .segmentExcluded => 2
  | .slotShort => 3
  | .slotEvicted => 4
  | .cueStarted => 5
  | .cueEnd => 6
  | .cueRefused => 7
  | .incidentEnter => 8
  | .incidentExit => 9
  | .fault => 10
  | .windowRefused => 11
  | .initDone => 12
  | .masterBarred => 13

/-! ## Bytes of numbers -/

/-- Byte `k` of a little-endian number (R155). -/
def le (n k : Nat) : Byte := BitVec.ofNat 8 (n / 256 ^ k)

/-- A flag byte (R155). -/
def flagByte (b : Bool) : Byte := if b then 1 else 0

/-- The bit mask of the members of `l` that satisfy `p`: bit n stands for member n (R155). -/
def maskOf {n : Nat} (l : List (Fin n)) (p : Fin n → Bool) : Nat :=
  l.foldl (fun acc i => if p i then acc + 2 ^ i.val else acc) 0

/-- Two bytes of `raw` read as a little-endian number. -/
def read16 (raw : Nat → Byte) (o : Nat) : Nat := (raw o).toNat + 256 * (raw (o + 1)).toNat

/-- Four bytes of `raw` read as a little-endian number. -/
def read32 (raw : Nat → Byte) (o : Nat) : Nat := read16 raw o + 65536 * read16 raw (o + 2)

/-! ## The bytes of each record (R155) -/

/-- The values that the status block shows (R163). -/
structure StatusFields where
  ready : Bool
  latch : Bool
  qualified : Bool
  producer : BitVec 7
  consumer : BitVec 7
  listLength : Nat
  lostEvents : Nat
  lostFaults : Nat
  protectedWrites : Nat
  barred : BitVec 16
  timebase : Nat
  deriving DecidableEq, Repr

/-- Status block, 64 bytes. Bit 0 of the incident byte is set in INCIDENT: the latch is set or the line is high (R142). -/
def statusByte (f : StatusFields) (o : Nat) : Byte :=
  if o < 2 then le Config.partCode o
  else if o = 2 then le Config.revision 0
  else if o = 3 then flagByte f.ready
  else if o = 4 then
    le ((if f.latch || f.qualified then 1 else 0) + (if f.latch then 2 else 0) + (if f.qualified then 4 else 0)) 0
  else if o = 5 then le f.producer.toNat 0
  else if o = 6 then le f.consumer.toNat 0
  else if o = 7 then le f.listLength 0
  else if o < 10 then le f.lostEvents (o - 8)
  else if o < 12 then le f.lostFaults (o - 10)
  else if o < 14 then le f.protectedWrites (o - 12)
  else if o < 16 then le f.barred.toNat (o - 14)
  else if o < 20 then le f.timebase (o - 16)
  else 0

/-- Request block, 64 bytes, from the Monitor's copy; the consumer index is the one in effect. -/
def requestByte (r : RequestBlock) (consumer : BitVec 7) (o : Nat) : Byte :=
  if o = 0 then r.softReset
  else if o = 1 then r.latch
  else if o = 2 then r.accessClear
  else if o = 3 then r.memoryClear
  else if o = 4 then le consumer.toNat 0
  else if o = 5 then le r.missLimit 0
  else if o < 8 then le r.eventMask.toNat (o - 6)
  else 0

/-- Fault record, 32 bytes. -/
def faultByte (f : FaultRecord) (o : Nat) : Byte :=
  if o = 0 then flagByte f.valid
  else if o = 1 then le (match f.kind with | some k => k.code | none => 0) 0
  else if o = 2 then le f.master 0
  else if o = 3 then (match f.window with | some w => le w.val 0 | none => 0xFF)
  else if o < 8 then le f.addr.toNat (o - 4)
  else if o = 8 then flagByte f.lost
  else 0

/-- Window entry, 32 bytes. -/
def windowByte (e : WindowEntry) (o : Nat) : Byte :=
  if o = 0 then flagByte e.enable
  else if o = 1 then e.roleCode
  else if o = 2 then le e.service.val 0
  else if o = 3 then le e.size 0
  else if o < 8 then le e.base.toNat (o - 4)
  else if o = 8 then flagByte e.mapped
  else if o < 12 then 0
  else if o < 16 then le e.target.toNat (o - 12)
  else if o = 16 then flagByte e.retiring
  else if o = 17 then 0
  else if o < 20 then le (match e.horizon with | some h => h | none => 0xFFFF) (o - 18)
  else 0

/-- Service entry, 64 bytes. -/
def serviceByte (e : ServiceEntry) (o : Nat) : Byte :=
  if o = 0 then flagByte e.enable
  else if o = 1 then flagByte e.program
  else if o = 2 then flagByte e.rescue
  else if o = 3 then flagByte e.through
  else if o < 6 then le e.deadline (o - 4)
  else if o = 6 then le e.holdFrames 0
  else if o = 7 then flagByte e.talkthrough
  else if o < 12 then le e.openThreshold (o - 8)
  else if o < 16 then le e.closeThreshold (o - 12)
  else if o = 16 then le e.source.val 0
  else if o = 17 then le e.offset 0
  else if o = 18 then flagByte e.breakIn
  else if o < 32 then 0
  else if o < 34 then le e.complete (o - 32)
  else if o < 36 then le e.short (o - 34)
  else if o < 38 then le e.evictions (o - 36)
  else if o < 40 then le e.saturated (o - 38)
  else if o < 42 then le e.underruns (o - 40)
  else if o < 44 then le e.flushErrors (o - 42)
  else if o < 48 then le e.lastPower (o - 44)
  else 0

/-- The gate byte: bit 7 OPEN, bits 3 to 0 the hold counter. -/
def gateByte (g : Gate) : Byte := le ((if g.isOpen then 128 else 0) + g.hold % 16) 0

/-- Segment entry, 64 bytes. -/
def segmentByte (e : SegmentEntry) (o : Nat) : Byte :=
  if o = 0 then flagByte e.enable
  else if o = 1 then le e.zone.val 0
  else if o = 2 then le e.stallTimeout 0
  else if o = 3 then e.uplinkServices
  else if o < 6 then le e.downlinkGain (o - 4)
  else if o < 8 then le e.uplinkGain (o - 6)
  else if o = 8 then le e.state.code 0
  else if o = 9 then 0
  else if o < 12 then le e.consecutive (o - 10)
  else if o < 14 then le e.total (o - 12)
  else if o < 16 then le e.lateWrites (o - 14)
  else if o < 18 then le e.sequenceErrors (o - 16)
  else if o < 20 then le e.lagReads (o - 18)
  else if o < 22 then le e.offlineAccesses (o - 20)
  else if o < 24 then 0
  else if o < 32 then gateByte (e.gates.get (Fin.ofNat 8 (o - 24)))
  else 0

/-- Frame record, 16 bytes from offset `at0` of the zone record. With no record only the valid byte is stated (log 21). -/
def frameByte (r : Option FrameRecord) (at0 o : Nat) : Byte :=
  if 12 ≤ o then 0
  else match r with
    | none => if o = 0 then 0 else Config.noneByte (at0 + o)
    | some f =>
      if o = 0 then 1
      else if o = 1 then (match f.cue with | some c => le c.val 0 | none => 0xFF)
      else if o < 4 then le f.frame (o - 2)
      else if o < 8 then le f.clip.toNat (o - 4)
      else if o < 10 then le f.gd (o - 8)
      else le f.gi (o - 10)

/-- Stack entry, 8 bytes; entries at and above the depth hold 0. -/
def stackByte (e : Option StackEntry) (o : Nat) : Byte :=
  match e with
  | none => 0
  | some e =>
    if o = 0 then le e.cue.val 0
    else if o = 1 then le e.level 0
    else if o < 4 then 0
    else le e.k (o - 4)

/-- Zone record, 128 bytes; `repeatsLeft` is the active cue's (R137). Bytes of an absent active cue: log 21. -/
def zoneByte (r : ZoneRecord) (repeatsLeft : Nat) (o : Nat) : Byte :=
  if o = 0 then le r.timing.val 0
  else if o = 1 then 0
  else if o < 4 then le r.ramp (o - 2)
  else if o = 4 then le r.mask 0
  else if o = 5 then (match r.active with | some a => le a.cue.val 0 | none => 0xFF)
  else if o = 6 then le r.stack.length 0
  else if o = 7 then 0
  else if o < 12 then (match r.active with | some a => le a.k (o - 8) | none => Config.noneByte o)
  else if o = 12 then (match r.active with | some _ => le repeatsLeft 0 | none => Config.noneByte o)
  else if o = 13 then 0
  else if o < 16 then le r.gd (o - 14)
  else if o < 64 then stackByte (r.stack.reverse[(o - 16) / 8]?) ((o - 16) % 8)
  else if o < 80 then frameByte r.current 64 (o - 64)
  else if o < 96 then frameByte r.previous 80 (o - 80)
  else 0

/-- Cue entry, 32 bytes; `playing` and `suspended` are the sets of zones (R113). The request is held as NONE (R114). -/
def cueByte (e : CueEntry) (playing suspended : Nat) (o : Nat) : Byte :=
  if o = 0 then 0
  else if o = 1 then e.tag
  else if o = 2 then le e.level 0
  else if o = 3 then e.zones
  else if o < 8 then le e.clip.toNat (o - 4)
  else if o < 10 then le e.length (o - 8)
  else if o = 10 then le e.repeats 0
  else if o = 11 then flagByte e.autoStart
  else if o < 14 then le e.gi (o - 12)
  else if o < 16 then le e.duck (o - 14)
  else if o = 16 then le e.state.code 0
  else if o = 17 then e.waiting
  else if o = 18 then le playing 0
  else if o = 19 then le suspended 0
  else if o = 20 then le e.lastEnd.code 0
  else if o = 21 then flagByte e.stopped
  else 0

/-- The contribution record of a segment in the slot view: bits 8 to 0 next word offset, 10 to 9 state, 11 gated. -/
def contribCode (c : Contrib) : Nat :=
  c.next % 512 + 512 * c.state.code + (if c.gated then 2048 else 0)

/-- Combine slot view, 64 bytes. -/
def slotByte (t : Slot) (o : Nat) : Byte :=
  if o = 0 then le t.state.code 0
  else if o = 1 then le t.window.val 0
  else if o = 2 then le t.service.val 0
  else if o = 3 then le t.outcome.code 0
  else if o < 6 then le t.frame (o - 4)
  else if o < 8 then le (2 * maskOf (List.finRange 12) (fun g => t.expected.contains g)) (o - 6)
  else if o < 12 then le t.allocTick.toNat (o - 8)
  else if o < 16 then le t.deadlineTick.toNat (o - 12)
  else if o < 18 then le t.satCount (o - 16)
  else if o < 20 then 0
  else if o < 44 then le (contribCode (t.contribs.get (Fin.ofNat 12 ((o - 20) / 2)))) ((o - 20) % 2)
  else 0

/-! ## Placement and ownership (R153, R154) -/

/-- What lies at an offset of the control region: a record with the offset inside it, the request block, the reserved
bytes, the event ring or plain memory (R153). -/
inductive Area where
  | record (id : RecordId) (o : Nat)
  | request (o : Nat)
  | reserved
  | ring
  | plain
  deriving DecidableEq, Repr

/-- The placement table of R153. -/
def areaOf (off : Nat) : Area :=
  if off < 0x40 then .record .status off
  else if off < 0x80 then .request (off - 0x40)
  else if off < 0xA0 then .record .accessFault (off - 0x80)
  else if off < 0xC0 then .record .memoryFault (off - 0xA0)
  else if off < 0x100 then .reserved
  else if off < 0x300 then .record (.window (Fin.ofNat 16 ((off - 0x100) / 32))) ((off - 0x100) % 32)
  else if off < 0x500 then .record (.service (Fin.ofNat 8 ((off - 0x300) / 64))) ((off - 0x300) % 64)
  else if off < 0x800 then .record (.segment (Fin.ofNat 12 ((off - 0x500) / 64))) ((off - 0x500) % 64)
  else if off < 0xC00 then .record (.zone (Fin.ofNat 8 ((off - 0x800) / 128))) ((off - 0x800) % 128)
  else if off < 0x1000 then .record (.cue (Fin.ofNat 32 ((off - 0xC00) / 32))) ((off - 0xC00) % 32)
  else if off < 0x1400 then .record (.slot (Fin.ofNat 16 ((off - 0x1000) / 64))) ((off - 0x1000) % 64)
  else if off < 0x1800 then .ring
  else .plain

/-- Where a record begins (R153). -/
def recordOffset : RecordId → Nat
  | .status => 0
  | .accessFault => 0x80
  | .memoryFault => 0xA0
  | .window w => 0x100 + 32 * w.val
  | .service v => 0x300 + 64 * v.val
  | .segment g => 0x500 + 64 * g.val
  | .zone z => 0x800 + 128 * z.val
  | .cue c => 0xC00 + 32 * c.val
  | .slot n => 0x1000 + 64 * n.val

/-- How long a record is (R153). -/
def recordSize : RecordId → Nat
  | .status => 64
  | .accessFault => 32
  | .memoryFault => 32
  | .window _ => 32
  | .service _ => 64
  | .segment _ => 64
  | .zone _ => 128
  | .cue _ => 32
  | .slot _ => 64

/-- The byte of a record is host-owned (layout tables of R155); every other byte of a record is part-owned (R154). -/
def hostOwned : RecordId → Nat → Bool
  | .status, _ => false
  | .accessFault, _ => false
  | .memoryFault, _ => false
  | .window _, o => o ≤ 8 || (12 ≤ o && o ≤ 15)
  | .service _, o => o ≤ 18
  | .segment _, o => o ≤ 7
  | .zone _, o => o == 0 || o == 2 || o == 3
  | .cue _, o => o ≤ 15
  | .slot _, _ => false

/-- A host write reaches memory at this offset unless barring, locking or protection masks it: host-owned bytes, the
unowned bytes of the request block and the plain memory (R153, R154). -/
def hostWritable (off : Nat) : Bool :=
  match areaOf off with
  | .record id o => hostOwned id o
  | .request _ => true
  | .reserved => false
  | .ring => false
  | .plain => true

/-! ## Host-owned fields from bytes, normalised (R158) -/

/-- A window entry with its host-owned fields but the enable taken from `raw`, normalised. -/
def decodeWindow (raw : Nat → Byte) (e : WindowEntry) : WindowEntry :=
  let role := roleOfCode (raw 1)
  let size14 := min (raw 3).toNat 14
  let size := if role = some .uplink ∨ role = some .program then max size14 2 else size14
  let base := read32 raw 4
  { e with
    roleCode := raw 1
    service := Fin.ofNat 8 (raw 2).toNat
    size := size
    base := BitVec.ofNat 32 (base - base % (1024 * 2 ^ size))
    mapped := (raw 8).getLsbD 0
    target := BitVec.ofNat 32 (read32 raw 12) }

/-- A service entry with its host-owned fields but the enable taken from `raw`, normalised. -/
def decodeService (raw : Nat → Byte) (e : ServiceEntry) : ServiceEntry :=
  { e with
    program := (raw 1).getLsbD 0
    rescue := raw 2 != 0
    through := (raw 3).getLsbD 0
    deadline := max (read16 raw 4) 20
    holdFrames := (raw 6).toNat % 16
    talkthrough := raw 7 != 0
    openThreshold := read32 raw 8
    closeThreshold := min (read32 raw 12) (read32 raw 8)
    source := Fin.ofNat 8 (raw 16).toNat
    offset := max (raw 17).toNat 1
    breakIn := raw 18 != 0 }

/-- A segment entry with its host-owned fields but the enable taken from `raw`. -/
def decodeSegment (raw : Nat → Byte) (e : SegmentEntry) : SegmentEntry :=
  { e with
    zone := Fin.ofNat 8 (raw 1).toNat
    stallTimeout := (raw 2).toNat
    uplinkServices := raw 3
    downlinkGain := read16 raw 4
    uplinkGain := read16 raw 6 }

/-- A zone record with its host-owned fields taken from `raw`, normalised. -/
def decodeZone (raw : Nat → Byte) (r : ZoneRecord) : ZoneRecord :=
  { r with
    timing := Fin.ofNat 8 (raw 0).toNat
    ramp := if read16 raw 2 = 0 ∨ 16384 < read16 raw 2 then 16384 else read16 raw 2 }

/-- A cue entry with its host-owned fields but the request taken from `raw`, normalised. -/
def decodeCue (raw : Nat → Byte) (e : CueEntry) : CueEntry :=
  { e with
    tag := raw 1
    level := (raw 2).toNat % 8
    zones := raw 3
    clip := BitVec.ofNat 32 (read32 raw 4)
    length := max (read16 raw 8) 1
    repeats := (raw 10).toNat
    autoStart := raw 11 != 0
    gi := min (read16 raw 12) 32767
    duck := min (read16 raw 14) 16384 }

/-- The bytes of the fields in `spans` (offset, width) whose bytes differ between `raw` and `new`: the fields that
normalisation has changed (R158, R159). -/
def changedBytes (spans : List (Nat × Nat)) (raw new : Nat → Byte) : List Nat :=
  spans.flatMap fun p =>
    let r := List.range' p.1 p.2
    if r.all (fun o => raw o == new o) then [] else r

/-- Host-owned fields of a window entry but the enable. -/
def windowSpans : List (Nat × Nat) := [(1, 1), (2, 1), (3, 1), (4, 4), (8, 1), (12, 4)]

/-- Host-owned fields of a service entry but the enable. -/
def serviceSpans : List (Nat × Nat) :=
  [(1, 1), (2, 1), (3, 1), (4, 2), (6, 1), (7, 1), (8, 4), (12, 4), (16, 1), (17, 1), (18, 1)]

/-- Host-owned fields of a segment entry but the enable. -/
def segmentSpans : List (Nat × Nat) := [(1, 1), (2, 1), (3, 1), (4, 2), (6, 2)]

/-- Host-owned fields of a zone record. -/
def zoneSpans : List (Nat × Nat) := [(0, 1), (2, 2)]

/-- Host-owned fields of a cue entry but the request. -/
def cueSpans : List (Nat × Nat) := [(1, 1), (2, 1), (3, 1), (4, 4), (8, 2), (10, 1), (11, 1), (12, 2), (14, 2)]

/-! ## The region as the part holds it -/

/-- Everything the part holds that the control region shows. -/
structure RegionView where
  status : StatusFields
  request : RequestBlock
  accessFault : FaultRecord
  memoryFault : FaultRecord
  windows : Vector WindowEntry 16
  services : Vector ServiceEntry 8
  segments : Vector SegmentEntry 12
  zones : Vector ZoneRecord 8
  cues : Vector CueEntry 32
  slots : Vector Slot 16

/-- The zones in which a cue is playing (R113). -/
def playingIn (zones : Vector ZoneRecord 8) (c : Fin 32) (z : Fin 8) : Bool :=
  match (zones.get z).active with
  | some a => a.cue == c
  | none => false

/-- The zones in which a cue is suspended (R113). -/
def suspendedIn (zones : Vector ZoneRecord 8) (c : Fin 32) (z : Fin 8) : Bool :=
  (zones.get z).stack.any (fun e => e.cue == c)

/-- The repeats left of a zone's active cue (R137): R minus the whole part of k / L; 0 with repeats 0. -/
def repeatsLeft (cues : Vector CueEntry 32) (r : ZoneRecord) : Nat :=
  match r.active with
  | some a =>
    let e := cues.get a.cue
    if e.repeats = 0 then 0 else e.repeats - a.k / e.length
  | none => 0

/-- Byte `o` of a record as the part holds it (R155). -/
def recordByte (v : RegionView) (id : RecordId) (o : Nat) : Byte :=
  match id with
  | .status => statusByte v.status o
  | .accessFault => faultByte v.accessFault o
  | .memoryFault => faultByte v.memoryFault o
  | .window w => windowByte (v.windows.get w) o
  | .service n => serviceByte (v.services.get n) o
  | .segment g => segmentByte (v.segments.get g) o
  | .zone z => zoneByte (v.zones.get z) (repeatsLeft v.cues (v.zones.get z)) o
  | .cue c =>
    cueByte (v.cues.get c) (maskOf (List.finRange 8) (playingIn v.zones c))
      (maskOf (List.finRange 8) (suspendedIn v.zones c)) o
  | .slot n => slotByte (v.slots.get n) o

/-- Byte `off` of the region as the image write-out writes it (R166): the records and the request block; unnamed,
reserved and unowned bytes are 0. -/
def imageByte (v : RegionView) (off : Nat) : Byte :=
  match areaOf off with
  | .record id o => recordByte v id o
  | .request o => requestByte v.request v.status.consumer o
  | .reserved => 0
  | .ring => 0
  | .plain => 0

/-- The 5120 bytes of the image write-out (R166). -/
def imageBytes (v : RegionView) : List Byte := (List.range 0x1400).map (imageByte v)

end Sys2Proof.Machine
end

