-- ==== Sys2Proof/Machine/State.lean ====
section
/-! DEFINITION. The state of the VH-2640, the two ways a step can stop, and the state after reset. -/

namespace Sys2Proof.Machine

/-- No condition of the VH-2640 stops the part: every fault of the manual is recorded and the part goes on (R168, R169).
So no step of the model ends in a fault, and this type has no constructor. -/
inductive Fault where
  deriving DecidableEq, Repr

/-- Why a step has no meaning. -/
inductive Refusal where
  /-- An instruction whose meaning is not written; raised by exec's arm, never by a meaning. Safe: the model stops. -/
  | notModelled (mnemonic : String)
  /-- ACCESS_REQUEST with an access that R16 does not let the system port carry (a length outside 1 to 16 words, an
  address that is not word-aligned, or write data that does not match the length). Safe: no such access can be presented. -/
  | malformedAccess
  deriving DecidableEq, Repr

/-- The state of the part. -/
structure State where
  /-- the model's own: commands that wait, oldest first -/
  pending : List Instr
  /-- the reset pin is low -/
  resetLow : Bool
  /-- the raw level of the incident line pin is high (R140) -/
  line : Bool
  /-- the base straps as sampled when a hard reset ended (R153) -/
  baseStraps : BitVec 8
  /-- the incident master straps as sampled when a hard reset ended (R141) -/
  masterStraps : BitVec 4
  /-- the timebase divider straps -/
  dividerStraps : BitVec 6
  /-- ticks since the reset was released; every use takes the low 32 bits (R165) -/
  timebase : Nat
  /-- requests presented at the system port and not taken, oldest first: while there is one the port withholds ready (R25) -/
  portWaiting : List Access
  /-- the queue of each master and how far its oldest access has gone (R25) -/
  ports : Vector MasterPort 16
  /-- the model's own: what the part does of itself before any other command acts, in order (R25, R26; log 6) -/
  due : List Due
  /-- the model's own: the responses given at the system port since the last hard reset, oldest first (log 11) -/
  responses : List Response
  windows : Vector WindowEntry 16
  /-- the map cache, most recently used first (R37) -/
  cache : List CacheEntry
  /-- the translation queue, oldest first (R40) -/
  translations : List TransReq
  /-- requests waiting for a place in the translation queue, oldest first (R40) -/
  translationWaits : List TransReq
  /-- the map fetch in flight (R41) -/
  fetch : Option MapFetch
  /-- map entry addresses under a snoop hazard (R43) -/
  hazards : List Hazard
  services : Vector ServiceEntry 8
  segments : Vector SegmentEntry 12
  zones : Vector ZoneRecord 8
  cues : Vector CueEntry 32
  slots : Vector Slot 16
  /-- pending allocations (R54, R55) -/
  allocs : List PendingAlloc
  /-- flush bursts issued before a soft reset (R81) -/
  staleBursts : List StaleBurst
  /-- hand-overs that the Supervisor has not taken (R102) -/
  handovers : List (Fin 12)
  /-- departure notices that the Combiner has not taken (R104) -/
  departures : List (Fin 12)
  /-- the incident latch (R141) -/
  latch : Bool
  /-- the qualified level of the incident line is high (R140) -/
  qualified : Bool
  /-- the tick at which the running qualification timer expires (R140) -/
  qualTimer : Option Nat
  /-- refusal counts of the masters (R150) -/
  refusals : Vector Nat 16
  /-- the barred masters (R150) -/
  barred : BitVec 16
  /-- the protected-write count (R149) -/
  protectedWrites : Nat
  request : RequestBlock
  /-- the write-back list, oldest first (R159) -/
  writeBackList : List ListedRecord
  /-- the write-back in flight (R160) -/
  writeBack : Option WriteBack
  /-- the initialisation state is READY (R163) -/
  ready : Bool
  /-- the image write-out, while it runs (R166) -/
  writeOut : Option WriteOut
  accessFault : FaultRecord
  memoryFault : FaultRecord
  lostFaults : Nat
  /-- the event producer index P (R173) -/
  producer : BitVec 7
  /-- the event consumer index in effect C (R173) -/
  consumer : BitVec 7
  /-- events accepted and not yet written, oldest first (R173) -/
  events : List Event
  /-- the oldest pending event is being written (R174) -/
  eventInFlight : Bool
  lostEvents : Nat
  deriving DecidableEq, Repr

/-! ## Reset values of the records -/

/-- R33. -/
def windowReset : WindowEntry :=
  { enable := false, roleCode := 0, service := 0, size := 0, base := 0, mapped := false, target := 0, retiring := false,
    horizon := none, captured := none }

/-- R165, R78, R92. -/
def serviceReset : ServiceEntry :=
  { enable := false, program := false, rescue := false, through := false, deadline := 0, holdFrames := 0,
    talkthrough := false, openThreshold := 0, closeThreshold := 0, source := 0, offset := 0, breakIn := false,
    complete := 0, short := 0, evictions := 0, saturated := 0, underruns := 0, flushErrors := 0, lastPower := 0 }

/-- R110, R107. -/
def segmentReset : SegmentEntry :=
  { enable := false, zone := 0, stallTimeout := 0, uplinkServices := 0, downlinkGain := 0, uplinkGain := 0,
    state := .offline, consecutive := 0, total := 0, lateWrites := 0, sequenceErrors := 0, lagReads := 0,
    offlineAccesses := 0, gates := Vector.replicate 8 { isOpen := true, hold := 0 }, timer := none }

/-- R138. -/
def zoneReset : ZoneRecord :=
  { timing := 0, ramp := 16384, mask := 0, active := none, stack := [], gd := 16384, current := none, previous := none }

/-- R138. -/
def cueReset : CueEntry :=
  { tag := 0, level := 0, zones := 0, clip := 0, length := 1, repeats := 0, autoStart := false, gi := 0, duck := 16384,
    state := .idle, waiting := 0, lastEnd := .none, stopped := false }

/-- R57. -/
def contribReset : Contrib := { state := .none, next := 0, gated := false, gain := 0, power := 0 }

/-- R50, R80. -/
def slotReset : Slot :=
  { state := .free, window := 0, frame := 0, service := 0, allocTick := 0, deadlineTick := 0, expected := [],
    contribs := Vector.replicate 12 contribReset, acc := List.replicate 256 { lo := 0, hi := 0 }, satCount := 0,
    outcome := .none, claimed := false, timer := none, held := [], flush := none }

/-- R168: an empty fault record. -/
def faultReset : FaultRecord :=
  { valid := false, kind := none, master := 0, addr := 0, window := none, lost := false }

/-- R165: miss limit 4, every event enabled. -/
def requestReset : RequestBlock :=
  { softReset := 0, latch := 0, accessClear := 0, memoryClear := 0, missLimit := 4, eventMask := BitVec.allOnes 14 }

/-! ## The whole state -/

/-- What the status block shows of a state (R163). -/
def State.statusFields (s : State) : StatusFields :=
  { ready := s.ready, latch := s.latch, qualified := s.qualified, producer := s.producer, consumer := s.consumer,
    listLength := s.writeBackList.length, lostEvents := s.lostEvents, lostFaults := s.lostFaults,
    protectedWrites := s.protectedWrites, barred := s.barred, timebase := s.timebase }

/-- What the control region shows of a state. -/
def State.view (s : State) : RegionView :=
  { status := s.statusFields, request := s.request, accessFault := s.accessFault, memoryFault := s.memoryFault,
    windows := s.windows, services := s.services, segments := s.segments, zones := s.zones, cues := s.cues,
    slots := s.slots }

/-- The part while the reset pin is low: every field at its hard-reset value, nothing running (R27, R33, R47, R80, R93,
R110, R138, R151, R165, R177). -/
def State.cold : State :=
  { pending := [], resetLow := true, line := false, baseStraps := 0, masterStraps := 0, dividerStraps := 0, timebase := 0,
    portWaiting := [], ports := Vector.replicate 16 { queue := [], stage := .waiting }, due := [], responses := [],
    windows := Vector.replicate 16 windowReset, cache := [], translations := [], translationWaits := [], fetch := none,
    hazards := [], services := Vector.replicate 8 serviceReset, segments := Vector.replicate 12 segmentReset,
    zones := Vector.replicate 8 zoneReset, cues := Vector.replicate 32 cueReset, slots := Vector.replicate 16 slotReset,
    allocs := [], staleBursts := [], handovers := [], departures := [], latch := false, qualified := false,
    qualTimer := none, refusals := Vector.replicate 16 0, barred := 0, protectedWrites := 0, request := requestReset,
    writeBackList := [], writeBack := none, ready := false, writeOut := none, accessFault := faultReset,
    memoryFault := faultReset, lostFaults := 0, producer := 0, consumer := 0, events := [], eventInFlight := false,
    lostEvents := 0 }

/-- The machine right after reset: the hard reset has just been released with every strap at 0 and the incident line low
(log 4); the image write-out has started, all its bursts unanswered (R165, R166). -/
def State.reset : State :=
  { State.cold with
    resetLow := false
    writeOut := some { soft := false, left := List.range Config.imageBursts, failed := false,
                       image := imageBytes State.cold.view } }

end Sys2Proof.Machine
end

