-- ==== Sys2Proof/Machine/Operands.lean ====
section
/-! DEFINITION. The operands of the sample traffic and the arithmetic on them (chapter 1): lanes, byte enables, scaling,
clamping, power, gates, the mix and the duck ramp. -/

namespace Sys2Proof.Machine

/-! ## Lanes (R1, R2) -/

/-- The low lane of a word (R1). -/
def laneLo (w : Word) : Int := (w.extractLsb' 0 16).toInt

/-- The high lane of a word (R1). -/
def laneHi (w : Word) : Int := (w.extractLsb' 16 16).toInt

/-- The word with these two lanes (R1). -/
def wordOf (lo hi : Int) : Word := BitVec.ofInt 16 hi ++ BitVec.ofInt 16 lo

/-- Both byte enables of the low lane are on. -/
def loOn (be : Enables) : Bool := be.getLsbD 0 && be.getLsbD 1

/-- Both byte enables of the high lane are on. -/
def hiOn (be : Enables) : Bool := be.getLsbD 2 && be.getLsbD 3

/-- The lanes of a written word as operands: a lane whose byte enables are off is 0 (R1). -/
def operandLanes (be : Enables) (w : Word) : Lanes :=
  { lo := if loOn be then laneLo w else 0, hi := if hiOn be then laneHi w else 0 }

/-- A partial word: exactly one of the two byte enables of a lane is on (R23). -/
def partialWord (be : Enables) : Bool :=
  (be.getLsbD 0 != be.getLsbD 1) || (be.getLsbD 2 != be.getLsbD 3)

/-- The access contains a partial word (R23). -/
def hasPartial (a : Access) : Bool := a.be.any partialWord

/-- The word with the bytes whose enables are off returned as 0 (R17). -/
def maskWord (be : Enables) (w : Word) : Word :=
  (if be.getLsbD 3 then w.extractLsb' 24 8 else (0 : Byte)) ++ (if be.getLsbD 2 then w.extractLsb' 16 8 else (0 : Byte)) ++
    (if be.getLsbD 1 then w.extractLsb' 8 8 else (0 : Byte)) ++ (if be.getLsbD 0 then w.extractLsb' 0 8 else (0 : Byte))

/-- Zeros in every word of a read (R17). -/
def zeros (n : Nat) : List Word := List.replicate n 0

/-- The address of word `i` of a burst that starts at `a` (R16), modulo 2^32 (log 9). -/
def wordAddr (a : Addr) (i : Nat) : Addr := a + BitVec.ofNat 32 (4 * i)

/-- The address of the last word of an access. -/
def lastAddr (a : Access) : Addr := wordAddr a.addr (a.len - 1)

/-- The frame that an address lies in: the address with its low ten bits zero (R2, R34). -/
def frameBase (a : Addr) : Addr := a &&& 0xFFFFFC00#32

/-! ## Gains (R4 to R6, R14) -/

/-- A lane scaled by a gain code: the floor of (s × g + 8192) / 16384 (R5). -/
def scale (s : Int) (g : Nat) : Int := (s * g + 8192) / 16384

/-- A value clamped to a lane (R6). -/
def clampLane (x : Int) : Int := max (-32768) (min 32767 x)

/-- The clamp changes the value (R6). -/
def saturates (x : Int) : Bool := clampLane x != x

/-- A word equalised with a downlink gain (R14). -/
def equaliseWord (g : Nat) (w : Word) : Word := wordOf (clampLane (scale (laneLo w) g)) (clampLane (scale (laneHi w) g))

/-- A lane of the programme mix (R12). -/
def mixLane (p c : Int) (gd gi : Nat) : Int := clampLane ((p * gd + c * gi + 8192) / 16384)

/-- A word of the programme mix: left with left, right with right (R12). -/
def mixWord (p c : Word) (gd gi : Nat) : Word :=
  wordOf (mixLane (laneLo p) (laneLo c) gd gi) (mixLane (laneHi p) (laneHi c) gd gi)

/-- A counter raised by `n`, stopping at 65535 (conventions of 00_scope.md). -/
def bumpBy (n c : Nat) : Nat := min (c + n) Config.counterTop

/-- A counter raised by 1, stopping at 65535. -/
def bump (c : Nat) : Nat := bumpBy 1 c

/-! ## Combining (R7 to R9) -/

/-- Scaled lanes added to the accumulators of one word offset (R7). -/
def Lanes.addScaled (acc x : Lanes) (g : Nat) : Lanes := { lo := acc.lo + scale x.lo g, hi := acc.hi + scale x.hi g }

/-- The words of a burst added to the accumulators from word offset `o` on (R7). -/
def addBurst (acc : List Lanes) (o g : Nat) : List Lanes → List Lanes
  | [] => acc
  | x :: xs => addBurst (acc.modify o (fun a => a.addScaled x g)) (o + 1) g xs

/-- The word written by a flush for one word offset: each lane the clamp of its accumulator (R8). -/
def flushedWord (a : Lanes) : Word := wordOf (clampLane a.lo) (clampLane a.hi)

/-- The number of the two lanes that the clamp changes (R8). -/
def lanesSaturated (a : Lanes) : Nat := (if saturates a.lo then 1 else 0) + (if saturates a.hi then 1 else 0)

/-- The saturation count of a frame (R8). -/
def saturationCount (acc : List Lanes) : Nat := (acc.map lanesSaturated).sum

/-- I² + Q² of one word (R9). -/
def lanePower (x : Lanes) : Nat := (x.lo * x.lo + x.hi * x.hi).toNat

/-- The power accumulator of a run of words (R9). -/
def powerOf (xs : List Lanes) : Nat := (xs.map lanePower).sum

/-- The power index of a power accumulator (R9). -/
def powerIndex (p : Nat) : Nat := p / 65536

/-- The power index of a flushed frame: its clamped lanes as I and Q (R8, R9). -/
def flushedPower (acc : List Lanes) : Nat :=
  powerIndex (powerOf (acc.map fun a => { lo := clampLane a.lo, hi := clampLane a.hi }))

/-! ## Noise gate (R10) -/

/-- The update of a gate by a DONE contribution's power index `p`, with open threshold `openT`, close threshold `closeT`
and hold frames `h` (R10). -/
def Gate.update (g : Gate) (p openT closeT h : Nat) : Gate :=
  if openT ≤ p then { isOpen := true, hold := h }
  else if g.isOpen then
    if closeT ≤ p then { isOpen := true, hold := h }
    else if 0 < g.hold then { isOpen := true, hold := g.hold - 1 }
    else { isOpen := false, hold := g.hold }
  else g

/-! ## Duck ramp (R13) -/

/-- One ramp step of size `step` from `gd` toward `target` (R13). -/
def rampStep (target gd step : Nat) : Nat :=
  if target < gd then max target (gd - step)
  else if gd < target then min target (gd + step)
  else gd

end Sys2Proof.Machine
end

