-- ==== Sys2Proof/Machine/Ops.lean ====
section
/-! DEFINITION. The shared operations on the state: writing one place of a table, the numbers of masters and segments, the
control region's place, the incident state, and listing a record for write-back. -/

namespace Sys2Proof.Machine

/-! ## Writing one place of a table -/

/-- One master's place at the system port replaced. -/
def State.setPort (s : State) (m : Fin 16) (p : MasterPort) : State := { s with ports := setAt s.ports m p }

/-- How far the access in service of `m` has gone. -/
def State.stage (s : State) (m : Fin 16) : Stage := (s.ports.get m).stage

/-- The stage of the access in service of `m` replaced. -/
def State.setStage (s : State) (m : Fin 16) (st : Stage) : State :=
  s.setPort m { s.ports.get m with stage := st }

/-- The oldest access of `m`, the one in service (R25). -/
def State.front (s : State) (m : Fin 16) : Option Access := (s.ports.get m).queue.head?

/-- A window entry replaced. -/
def State.setWindow (s : State) (w : Fin 16) (e : WindowEntry) : State := { s with windows := setAt s.windows w e }

/-- A service entry replaced. -/
def State.setService (s : State) (v : Fin 8) (e : ServiceEntry) : State := { s with services := setAt s.services v e }

/-- A segment entry replaced. -/
def State.setSegment (s : State) (g : Fin 12) (e : SegmentEntry) : State := { s with segments := setAt s.segments g e }

/-- A zone record replaced. -/
def State.setZone (s : State) (z : Fin 8) (r : ZoneRecord) : State := { s with zones := setAt s.zones z r }

/-- A cue entry replaced. -/
def State.setCue (s : State) (c : Fin 32) (e : CueEntry) : State := { s with cues := setAt s.cues c e }

/-- A combine slot replaced. -/
def State.setSlot (s : State) (n : Fin 16) (t : Slot) : State := { s with slots := setAt s.slots n t }

/-! ## Numbers -/

/-- The segment that a master serves: masters 1 to 12 serve segments 1 to 12 (00_scope.md), numbered from 0 here. -/
def segOf (m : Fin 16) : Option (Fin 12) :=
  if h : 1 ≤ m.val ∧ m.val ≤ 12 then some ⟨m.val - 1, by omega⟩ else none

/-- The master that serves a segment. -/
def masterOf (g : Fin 12) : Fin 16 := ⟨g.val + 1, by omega⟩

/-- The low 32 bits of the timebase (R165). -/
def State.now (s : State) : BitVec 32 := BitVec.ofNat 32 s.timebase

/-- The start of the control region: the base straps times 16 MiB (R153). -/
def State.regionBase (s : State) : Addr := s.baseStraps ++ (0 : BitVec 24)

/-- The address lies in the control region (R153). -/
def State.inRegion (s : State) (a : Addr) : Bool := decide ((a - s.regionBase).toNat < Config.regionBytes)

/-- The incident state is INCIDENT: the latch is set or the qualified line is high (R142). -/
def State.incident (s : State) : Bool := s.latch || s.qualified

/-- The incident master: the number on the sampled straps (R141). -/
def State.incidentMaster (s : State) : Fin 16 := s.masterStraps.toFin

/-- The role named by a window entry's role code. -/
def WindowEntry.role (e : WindowEntry) : Option Role := roleOfCode e.roleCode

/-- The number of frames of a window: 2^c (R2). -/
def WindowEntry.frames (e : WindowEntry) : Nat := 2 ^ e.size

/-! ## The write-back list (R159) -/

/-- A record put on the write-back list with host-owned bytes to be written. A record that already stands on the list
keeps its place and takes the bytes into its set. -/
def addListed (id : RecordId) (host : List Nat) : List ListedRecord → List ListedRecord
  | [] => [{ id := id, hostBytes := host }]
  | r :: rs =>
    if r.id = id then { r with hostBytes := r.hostBytes ++ host.filter (fun o => !r.hostBytes.contains o) } :: rs
    else r :: addListed id host rs

/-- The record is listed, with these host-owned bytes to be written (R159). -/
def State.listBytes (s : State) (id : RecordId) (host : List Nat) : State :=
  { s with writeBackList := addListed id host s.writeBackList }

/-- The record is listed for its part-owned bytes (R159). -/
def State.list (s : State) (id : RecordId) : State := s.listBytes id []

/-- The record is listed if `b` holds: if a field of it has changed. -/
def State.listIf (s : State) (b : Bool) (id : RecordId) : State := if b then s.list id else s

/-- The record stands on the write-back list. -/
def State.listed (s : State) (id : RecordId) : Bool := s.writeBackList.any (fun r => r.id == id)

end Sys2Proof.Machine
end

