-- ==== Sys2Proof/Machine/Flags.lean ====
section
/-! DEFINITION. The Fault and Event Unit (chapter 10): fault records, the event ring's producer side, the attention line. -/

namespace Sys2Proof.Machine

/-- The number of records in the ring that software has not consumed (R173). -/
def State.ringCount (s : State) : Nat := (s.producer - s.consumer).toNat

/-- The attention line (R176). -/
def State.attention (s : State) : Bool := decide (0 < s.ringCount)

/-- The event kind is enabled (R172). -/
def State.eventEnabled (s : State) (k : EventKind) : Bool := s.request.eventMask.getLsbD k.code

/-- The lost-event count raised by 1; each increase lists the status block (R173, R174). -/
def State.loseEvent (s : State) : State :=
  ({ s with lostEvents := bump s.lostEvents }).listIf (s.lostEvents < Config.counterTop) .status

/-- An event is raised (R171 to R173): discarded while its kind is disabled, dropped and counted as lost when the ring
count and the pending list together have reached 64, accepted into the pending list otherwise. -/
def State.raiseEvent (s : State) (k : EventKind) (object : Nat) (tag : Byte) (reason : Nat) : State :=
  if s.eventEnabled k then
    if s.ringCount + s.events.length < Config.ringPlaces then
      { s with events := s.events ++ [{ kind := k, object := object, tag := tag, reason := reason, tick := s.now }] }
    else s.loseEvent
  else s

/-- The fault kind belongs to the memory fault class (R168). -/
def FaultKind.memoryClass : FaultKind → Bool
  | .unmapped => false
  | .boundary => false
  | .partialWord => false
  | .role => false
  | .protectedWrite => false
  | .readError => true
  | .writeError => true
  | .mapError => true
  | .flushError => true
  | .clipError => true
  | .writebackError => true

/-- What a fault makes of the record of its class (R169): an empty record is filled, a valid one keeps its fault and
takes LOST. -/
def FaultRecord.takeFault (r : FaultRecord) (k : FaultKind) (master : Nat) (addr : Addr) (window : Option (Fin 16)) :
    FaultRecord :=
  if r.valid then { r with lost := true }
  else { valid := true, kind := some k, master := master, addr := addr, window := window, lost := false }

/-- The fault record of a class. -/
def State.faultRecord (s : State) (memoryClass : Bool) : FaultRecord := if memoryClass then s.memoryFault else s.accessFault

/-- The fault record of a class replaced; a change lists it (R168). -/
def State.setFaultRecord (s : State) (memoryClass : Bool) (r : FaultRecord) : State :=
  if memoryClass then ({ s with memoryFault := r }).listIf (r != s.memoryFault) .memoryFault
  else ({ s with accessFault := r }).listIf (r != s.accessFault) .accessFault

/-- A fault that meets a valid record raises the lost-fault count, and each increase lists the status block (R169). -/
def State.countLostFault (s : State) (met : Bool) : State :=
  if met then ({ s with lostFaults := bump s.lostFaults }).listIf (s.lostFaults < Config.counterTop) .status else s

/-- A fault is raised (R169): its record, the lost-fault count, and event FAULT with the master as object and the kind
code as reason. -/
def State.raiseFault (s : State) (k : FaultKind) (master : Nat) (addr : Addr) (window : Option (Fin 16)) : State :=
  let r := s.faultRecord k.memoryClass
  ((s.setFaultRecord k.memoryClass (r.takeFault k master addr window)).countLostFault r.valid).raiseEvent
    .fault master 0 k.code

/-- The fault record of a class is emptied; an empty one does not change and is not listed (R170). -/
def State.clearFault (s : State) (memoryClass : Bool) : State :=
  if (s.faultRecord memoryClass).valid then s.setFaultRecord memoryClass faultReset else s

/-- The consumer index in effect for a written value: taken when it lies at most 64 behind the producer, else the
producer (R158, R175). -/
def normaliseConsumer (producer v : BitVec 7) : BitVec 7 := if 64 < (producer - v).toNat then producer else v

end Sys2Proof.Machine
end

