-- ==== Sys2Proof/Machine/Port.lean ====
section
/-! DEFINITION. The system port and the Window Classifier: classification (R18, R20), responses (R17, R25), back-pressure
(R25, R40), the snoop of writes (R43), and the end of retirement (R32). -/

namespace Sys2Proof.Machine

/-! ## Classification -/

/-- The window covers the address: it is enabled and the address lies in its range (R18). -/
def WindowEntry.covers (e : WindowEntry) (a : Addr) : Bool :=
  e.enable && decide ((a - e.base).toNat < 1024 * e.frames)

/-- The lowest-numbered enabled window that covers the address (R18). -/
def State.windowAt (s : State) (a : Addr) : Option (Fin 16) :=
  (List.finRange 16).find? (fun w => (s.windows.get w).covers a)

/-- The hit of an address in window `w` with role `r`: frame index and word offset by R2. -/
def WindowEntry.hitAt (e : WindowEntry) (w : Fin 16) (r : Role) (a : Addr) : WinHit :=
  { window := w, role := r, service := e.service, frame := (a - e.base).toNat / 1024,
    offset := (a - e.base).toNat % 1024 / 4 }

/-- The class of an address: control region, sample window, unwindowed, tried in this order (R18). -/
def State.classify (s : State) (a : Addr) : Cls :=
  if s.inRegion a then .control
  else match s.windowAt a with
    | none => .unwindowed
    | some w => match (s.windows.get w).role with
      | some r => .window ((s.windows.get w).hitAt w r a)
      | none => .unwindowed

/-- What the burst-boundary check finds for the classes of the first and the last word (R20): none when the burst passes,
else the window that the fault names. -/
def boundaryFault : Cls → Cls → Option (Option (Fin 16))
  | .window h, .window h' =>
    if h.window = h'.window ∧ h.frame = h'.frame then none else some (some h.window)
  | .window h, .control => some (some h.window)
  | .window h, .unwindowed => some (some h.window)
  | .control, .control => none
  | .control, .window h => some (some h.window)
  | .control, .unwindowed => some none
  | .unwindowed, .unwindowed => none
  | .unwindowed, .window h => some (some h.window)
  | .unwindowed, .control => some none

/-! ## Translations of windows and the snoop -/

/-- The translation in force for a window: the one captured when retirement started, or the entry's own (R36). -/
def WindowEntry.translation (e : WindowEntry) : Bool × Addr :=
  if e.retiring then e.captured.getD (e.mapped, e.target) else (e.mapped, e.target)

/-- The map entry address of a frame: map base plus 4 × f, the map base with its low two bits zero (R35). -/
def mapEntryAddr (mapBase : Addr) (frame : Nat) : Addr := (mapBase &&& 0xFFFFFFFC#32) + BitVec.ofNat 32 (4 * frame)

/-- The address lies in the map region of an enabled or retiring MAPPED window (R35, R43). -/
def WindowEntry.mapRegionHolds (e : WindowEntry) (a : Addr) : Bool :=
  (e.enable || e.retiring) && e.translation.1 &&
    decide ((a - mapEntryAddr e.translation.2 0).toNat < 4 * e.frames)

/-- The map entry address of a cache entry (R37). -/
def State.cacheAddr (s : State) (c : CacheEntry) : Addr :=
  mapEntryAddr (s.windows.get c.window).translation.2 c.frame

/-- The word addresses of a burst of `n` words. -/
def burstAddrs (a : Addr) (n : Nat) : List Addr := (List.range n).map (wordAddr a)

/-- The map entry addresses among the words of a burst (R43). -/
def State.hazarded (s : State) (a : Addr) (n : Nat) : List Addr :=
  (burstAddrs a n).filter (fun x => (List.finRange 16).any fun w => (s.windows.get w).mapRegionHolds x)

/-- The cache entries left by the snoop of a write of `n` words at `a` (R43): where the write overlaps a map region of an
enabled or retiring window, the entries whose map entry address it overlaps are removed. -/
def State.snoopedCache (s : State) (a : Addr) (n : Nat) : List CacheEntry :=
  if (s.hazarded a n).isEmpty then s.cache
  else s.cache.filter (fun c => !(burstAddrs a n).contains (s.cacheAddr c))

/-- The snoop of a write of `n` words at `a` (R43, R44): cache entries that it makes stale are removed, the map entry
addresses it overlaps come under a hazard held by `src`, and a fetch in flight for one of them is marked for discard. -/
def State.snoop (s : State) (src : HazardSource) (a : Addr) (n : Nat) : State :=
  { s with
    cache := s.snoopedCache a n
    hazards := s.hazards ++ (s.hazarded a n).map (fun x => ({ addr := x, source := src } : Hazard))
    fetch := s.fetch.map (fun f => { f with discard := f.discard || (s.hazarded a n).contains f.request.mapAddr }) }

/-- The hazards held by a write end (R43). -/
def State.endHazards (s : State) (src : HazardSource) : State :=
  { s with hazards := s.hazards.filter (fun h => h.source != src) }

/-! ## Responses and the queues -/

/-- The part is to do this of itself, after what is due already (R25, R26; log 6). -/
def State.owe (s : State) (l : List Due) : State := { s with due := s.due ++ l }

/-- What the completion of the access in service of a master with this queue makes due (R25): the next access, if there is
one, is taken for service. -/
def nextTaking (m : Fin 16) (queue : List Access) : List Due := if queue.tail.isEmpty then [] else [.take m]

/-- The access in service of `m` is answered (R17, R25): the response is given, the access leaves the queue, the snoop
hazards it held end (R43), and the next access of the master is to be taken at this moment. -/
def State.respond (s : State) (m : Fin 16) (ok : Bool) (data : List Word) : State :=
  ((({ s with responses := s.responses ++ [{ master := m, ok := ok, data := data }] } : State).setPort m
    { queue := (s.ports.get m).queue.tail, stage := .waiting }).endHazards (.master m)).owe
      (nextTaking m (s.ports.get m).queue)

/-- A refused or dropped access is answered OK, a read with zeros in every word (R17). -/
def State.respondDropped (s : State) (m : Fin 16) (a : Access) : State :=
  s.respond m true (match a.dir with | .read => zeros a.len | .write => [])

/-- The system port may take requests: the reset is released, every access that has come into service has been classified,
checked and handed on (R25), and no request of a master's access waits for a place in the translation queue (R40). -/
def State.portOpen (s : State) : Bool := !s.resetLow && s.due.isEmpty && !s.translationWaits.any (fun r => !r.own)

/-- The system port signals ready (R25). -/
def State.portReady (s : State) : Bool := s.portOpen && s.portWaiting.isEmpty

/-- The access joins its master's queue (R25). In an empty queue it is the oldest, the one in service, and is to be taken
at this moment. -/
def State.enqueue (s : State) (a : Access) : State :=
  (s.setPort a.master { s.ports.get a.master with queue := (s.ports.get a.master).queue ++ [a] }).owe
    (if (s.ports.get a.master).queue.isEmpty then [.take a.master] else [])

/-- The presented requests are taken in order until the port is not open or the foremost one's queue is full (R25). One that
comes into service closes the port until it has been handed on: it may turn out to wait for a translation place (R40). -/
def takeRequests : List Access → State → State
  | [], s => { s with portWaiting := [] }
  | a :: rest, s =>
    if s.portOpen && decide ((s.ports.get a.master).queue.length < Config.queuePlaces) then takeRequests rest (s.enqueue a)
    else { s with portWaiting := a :: rest }

/-! ## The end of retirement -/

/-- The window that the access in service was classified into (R31). -/
def Stage.window : Stage → Option (Fin 16)
  | .waiting => none
  | .taken (.window h) => some h.window
  | .taken .control => none
  | .taken .unwindowed => none
  | .heldWriteOut => none
  | .heldWriteBack => none
  | .heldRecords _ => none
  | .heldSlot _ h => some h.window
  | .heldPending h => some h.window
  | .translating h _ _ => some h.window
  | .issued i => i.hit.map (·.window)

/-- A slot of the window is not FREE, or an access classified into it is unfinished (R32). -/
def State.windowBusy (s : State) (w : Fin 16) : Bool :=
  (List.finRange 16).any (fun n => (s.slots.get n).state != .free && (s.slots.get n).window == w) ||
    (List.finRange 16).any (fun m => (s.stage m).window == some w)

/-- Retirement of a window ends when nothing of it is left (R32): its cache entries are removed, its horizon and retiring
field are cleared, and the entry is listed. -/
def State.endRetirement (s : State) (w : Fin 16) : State :=
  if (s.windows.get w).retiring && !s.windowBusy w then
    (({ s with cache := s.cache.filter (fun c => c.window != w) }).setWindow w
      { s.windows.get w with retiring := false, horizon := none, captured := none }).list (.window w)
  else s

/-- Every retirement that can end ends (R32). DESIGN CHOICE (log 42): where several end by one event, their entries join the
write-back list in ascending window number, after everything else that the operation lists. -/
def State.endRetirements (s : State) : State := (List.finRange 16).foldl State.endRetirement s

/-- What follows every change: retirements that can end, end (R32), and requests that the port can take are taken (R25). -/
def State.settle (s : State) : State :=
  takeRequests s.endRetirements.portWaiting s.endRetirements

end Sys2Proof.Machine
end

