-- ==== Sys2Proof/Machine/Translator.lean ====
section
/-! DEFINITION. The Frame Translator (chapter 3): requests, the map cache, the translation queue and the map fetch. -/

namespace Sys2Proof.Machine

/-- What a request for a translation is answered at the moment it is made (R36): a physical frame address, a refusal, or
nothing yet. -/
inductive Translated where
  | given (phys : Addr)
  | refused
  | waiting
  deriving DecidableEq, Repr

/-- The master that a fault of the Translator names: the request's master, or 16 for a flush (R36, R45). -/
def Owner.number : Owner → Nat
  | .master m => m.val
  | .flush _ => Config.ownNumber

/-- The physical frame address of a DIRECT window's frame (R34). -/
def directFrame (base : Addr) (frame : Nat) : Addr := frameBase base + BitVec.ofNat 32 (1024 * frame)

/-- The cache entry of a window and frame index (R37). -/
def State.cached (s : State) (w : Fin 16) (frame : Nat) : Option CacheEntry :=
  s.cache.find? (fun c => c.window == w && c.frame == frame)

/-- The cache entry becomes the most recently used (R37). -/
def State.touchCache (s : State) (c : CacheEntry) : State := { s with cache := c :: s.cache.filter (fun x => x != c) }

/-- A request that missed joins the translation queue, or waits for a place while the queue is full or others already
wait (R40). DESIGN CHOICE (log 46): it waits behind those others even where more places are free than requests wait. -/
def State.joinQueue (s : State) (r : TransReq) : State :=
  if s.translationWaits.isEmpty && decide (s.translations.length < Config.translationPlaces) then
    { s with translations := s.translations ++ [r] }
  else { s with translationWaits := s.translationWaits ++ [r] }

/-- A translation is requested (R36). A DIRECT one is given at once or refused with UNMAPPED when it lies in the control
region (R34). A MAPPED one is refused when its map entry lies in the control region (R35), given from the map cache on a
hit (R37), and waits on a miss (R40). `directAddr` is the address that a refused DIRECT translation of a master's access
names; a flush's names the physical frame address (R45). -/
def State.translate (s : State) (o : Owner) (w : Fin 16) (frame : Nat) (directAddr : Option Addr) (own : Bool) :
    Translated × State :=
  let t := (s.windows.get w).translation
  if t.1 then
    let a := mapEntryAddr t.2 frame
    if s.inRegion a then (.refused, s.raiseFault .unmapped o.number a (some w))
    else match s.cached w frame with
      | some c => (.given c.phys, s.touchCache c)
      | none => (.waiting, s.joinQueue { owner := o, window := w, frame := frame, mapAddr := a, own := own })
  else
    let p := directFrame t.2 frame
    if s.inRegion p then (.refused, s.raiseFault .unmapped o.number (directAddr.getD p) (some w))
    else (.given p, s)

/-- A valid map entry: its valid bit is 1 and its frame lies outside the control region (R35). -/
def State.mapEntryValid (s : State) (entry : Word) : Bool := entry.getLsbD 0 && !s.inRegion (frameBase entry)

/-- The map cache after a fetch (R38): the new entry is the most recently used; it takes the place of an entry for the
same window and frame index, an empty place, or the least recently used entry's place. -/
def insertCache (c : CacheEntry) (cache : List CacheEntry) : List CacheEntry :=
  (c :: cache.filter (fun x => !(x.window == c.window && x.frame == c.frame))).take Config.cachePlaces

/-- A fetched translation enters the cache (R38, R42), whatever has become of its window meanwhile (log 15). -/
def State.createCacheEntry (s : State) (r : TransReq) (phys : Addr) : State :=
  { s with cache := insertCache { window := r.window, frame := r.frame, phys := phys } s.cache }

/-- The requests of the group that a fetch serves (R41, R42). -/
def State.fetchGroup (s : State) (r : TransReq) : List TransReq :=
  s.translations.filter (fun x => x.window == r.window && x.frame == r.frame)

/-- The fetch is over: nothing is in flight and its group leaves the queue (R42). -/
def State.endFetch (s : State) (r : TransReq) : State :=
  { s with
    fetch := none
    translations := s.translations.filter (fun x => !(x.window == r.window && x.frame == r.frame)) }

/-- The oldest request whose map entry address is not under a snoop hazard (R41). -/
def State.fetchable (s : State) : Option TransReq :=
  s.translations.find? (fun r => !s.hazards.any (fun h => h.addr == r.mapAddr))

/-- MAP_FETCH_ISSUE (R41): with no fetch in flight, a fetch is issued for the oldest request not under a hazard. -/
def State.issueFetch (s : State) : State :=
  match s.fetch with
  | some _ => s
  | none => match s.fetchable with
    | some r => { s with fetch := some { request := r, discard := false } }
    | none => s

/-- TRANSLATION_QUEUE_JOIN (R40): while the queue has a place, the request that has waited longest joins it. -/
def State.joinFromWait (s : State) : State :=
  match s.translationWaits with
  | [] => s
  | r :: rest =>
    if s.translations.length < Config.translationPlaces then
      { s with translations := s.translations ++ [r], translationWaits := rest }
    else s

end Sys2Proof.Machine
end

