-- ==== Sys2Proof/Machine/Path.lean ====
section
/-! DEFINITION. The way of an access to memory and back: issue at the memory port (R16, R71, R88, R134), the translation
given or refused (R36, R45), and the memory's answer (R17, R84, R88, R135). -/

namespace Sys2Proof.Machine

/-- All byte enables on in each of `n` words. -/
def allOn (n : Nat) : List Enables := List.replicate n 0xF

/-- The access stands at the memory port (R16). -/
def State.issue (s : State) (m : Fin 16) (i : Issue) : State := s.setStage m (.issued i)

/-- An access as it goes to memory on a master's behalf: its own length, direction, byte enables and data (R16). -/
def onBehalf (number : Nat) (a : Access) (addr : Addr) : MemAccess :=
  { number := number, dir := a.dir, addr := addr, be := a.be, data := a.data }

/-- A read of the part's own of `n` words, all byte enables on (R88, R134). -/
def ownRead (addr : Addr) (n : Nat) : MemAccess :=
  { number := Config.ownNumber, dir := .read, addr := addr, be := allOn n, data := [] }

/-- An access passed to memory unchanged at its own address: unwindowed and control-region traffic (R16, R18). -/
def State.passUnchanged (s : State) (m : Fin 16) (a : Access) : State :=
  s.issue m { hit := none, port := onBehalf m.val a a.addr, treat := .plain, answer := none, clip := .absent, changed := [] }

/-- A slot in FILLING or FLUSHING holds the window and frame index (R74, R87). -/
def Slot.holds (t : Slot) (w : Fin 16) (frame : Nat) : Bool := t.state != .free && t.window == w && t.frame == frame

/-- The slot in FILLING or FLUSHING that holds the window and frame index (R74). -/
def State.slotOf (s : State) (w : Fin 16) (frame : Nat) : Option (Fin 16) :=
  (List.finRange 16).find? (fun n => (s.slots.get n).holds w frame)

/-- A talkthrough read of service `d` is an underrun (R87, R92): answered OK with zeros, and counted. -/
def State.underrun (s : State) (m : Fin 16) (a : Access) (d : Fin 8) : State :=
  let e := s.services.get d
  ((s.setService d { e with underruns := bump e.underruns }).listIf (e.underruns < Config.counterTop) (.service d)).respond
    m true (zeros a.len)

/-- The clip read beside a mixed read (R134): none with no cue, none and a CLIP_ERROR when the clip frame lies in the
control region, else a read of the part's own at the same word offsets. -/
def State.issueClip (s : State) (hit : WinHit) (n : Nat) (v : MixValues) : ClipRead × State :=
  match v.clip with
  | none => (.absent, s)
  | some c =>
    let addr := wordAddr c hit.offset
    if s.inRegion c then (.absent, s.raiseFault .clipError Config.ownNumber addr (some hit.window))
    else (.issued (ownRead addr n), s)

/-- The translation of the access in service of `m` is given (R36): the access goes to memory as its treatment lays down.
A write is snooped at its translated address (R43); a talkthrough read is checked against the combine store a second time
(R87). `own` is set for an uplink read released from a slot, which carries the part's own number (R16) and, DESIGN CHOICE
(log 40), the byte enables that its master gave. -/
def State.deliver (s : State) (m : Fin 16) (a : Access) (hit : WinHit) (t : Treatment) (own : Bool) (phys : Addr) : State :=
  let addr := wordAddr phys hit.offset
  let number := if own then Config.ownNumber else m.val
  let i : Issue :=
    { hit := some hit, port := onBehalf number a addr, treat := t, answer := none, clip := .absent, changed := [] }
  match t with
  | .plain =>
    (match a.dir with | .write => s.snoop (.master m) addr a.len | .read => s).issue m i
  | .equalise _ => s.issue m i
  | .talkthrough _ d w frame =>
    match s.slotOf w frame with
    | some _ => s.underrun m a d
    | none => s.issue m { i with port := ownRead addr a.len }
  | .mix v =>
    let c := s.issueClip hit a.len v
    c.2.issue m { i with clip := c.1 }

/-- The window and frame index whose translation an access asks for (R36): its own, or the source's of a talkthrough
read. -/
def Treatment.target (t : Treatment) (hit : WinHit) : Fin 16 × Nat :=
  match t with
  | .plain => (hit.window, hit.frame)
  | .equalise _ => (hit.window, hit.frame)
  | .talkthrough _ _ w frame => (w, frame)
  | .mix _ => (hit.window, hit.frame)

/-- The request is one of the part's own (R40). -/
def Treatment.ownRequest : Treatment → Bool
  | .plain => false
  | .equalise _ => false
  | .talkthrough _ _ _ _ => true
  | .mix _ => false

/-- A sample-window access asks for its translation and goes on as it is answered (R36, R45). -/
def State.sendThrough (s : State) (m : Fin 16) (a : Access) (hit : WinHit) (t : Treatment) (own : Bool) : State :=
  let r := s.translate (.master m) (t.target hit).1 (t.target hit).2 (some a.addr) t.ownRequest
  match r.1 with
  | .given p => r.2.deliver m a hit t own p
  | .refused => r.2.respondDropped m a
  | .waiting => r.2.setStage m (.translating hit t own)

/-- The translation that the access in service of `m` waits for is given (R42). -/
def State.giveMaster (s : State) (m : Fin 16) (phys : Addr) : State :=
  match s.front m, s.stage m with
  | some a, .translating hit t own => s.deliver m a hit t own phys
  | _, _ => s

/-- The translation that the access in service of `m` waits for is refused (R45): a write is dropped, a read answered
with zeros. -/
def State.refuseMaster (s : State) (m : Fin 16) : State :=
  match s.front m, s.stage m with
  | some a, .translating _ _ _ => s.respondDropped m a
  | _, _ => s

/-! ## Answers -/

/-- A burst equalised with a gain, the bytes whose enables are off returned as 0 (R14, R17). -/
def equaliseBurst (g : Nat) (be : List Enables) (data : List Word) : List Word :=
  List.zipWith maskWord be (data.map (equaliseWord g))

/-- A burst mixed with a clip burst, the bytes whose enables are off returned as 0 (R12, R17). -/
def mixBurst (v : MixValues) (be : List Enables) (prog clip : List Word) : List Word :=
  List.zipWith maskWord be (List.zipWith (fun p c => mixWord p c v.gd v.gi) prog clip)

/-- The answer can be one to this access: the answer OK to a read carries the data of each word (log 10). -/
def answerFits (a : Access) (r : Answer) : Bool :=
  match a.dir with
  | .read => !r.ok || r.data.length == a.len
  | .write => true

/-- The window that a fault of an issued access names (R17). -/
def Issue.window (i : Issue) : Option (Fin 16) := i.hit.map (·.window)

/-- A mixed read is answered once its programme read and its clip read have been (R135). -/
def State.finishMix (s : State) (m : Fin 16) (a : Access) (v : MixValues) (prog : Answer) (clip : List Word) : State :=
  if prog.ok then s.respond m true (mixBurst v a.be prog.data clip) else s.respond m false (zeros a.len)

/-- READ_ERROR or WRITE_ERROR for an access that the memory answered ERROR (R17). -/
def State.memoryError (s : State) (m : Fin 16) (a : Access) (window : Option (Fin 16)) : State :=
  s.raiseFault (match a.dir with | .read => .readError | .write => .writeError) m.val a.addr window

/-- The memory answers the access issued on behalf of `m` (R17, R84, R135). -/
def State.answerAccess (s : State) (m : Fin 16) (a : Access) (i : Issue) (r : Answer) : State :=
  let s' := if r.ok then s else s.memoryError m a i.window
  match i.treat with
  | .plain => s'.respond m r.ok (match a.dir with | .read => r.data | .write => [])
  | .equalise g => if r.ok then s'.respond m true (equaliseBurst g a.be r.data) else s'.respond m false (zeros a.len)
  | .talkthrough _ _ _ _ => s
  | .mix v =>
    match i.answer with
    | some _ => s
    | none =>
      match i.clip with
      | .issued _ => s'.issue m { i with answer := some r }
      | .absent => s'.finishMix m a v r (zeros a.len)
      | .answered d => s'.finishMix m a v r d

/-- The memory answers the clip read beside the programme read of `m` (R135). -/
def State.answerClip (s : State) (m : Fin 16) (a : Access) (i : Issue) (r : Answer) : State :=
  match i.treat, i.clip with
  | .mix v, .issued port =>
    let s' := if r.ok then s else s.raiseFault .clipError Config.ownNumber port.addr i.window
    match i.answer with
    | none => s'.issue m { i with clip := if r.ok then .answered r.data else .absent }
    | some prog => s'.finishMix m a v prog (if r.ok then r.data else zeros a.len)
  | _, _ => s

/-- The memory answers the source read of the talkthrough read of `m` (R88): equalised data, or zeros and READ_ERROR. -/
def State.answerSource (s : State) (m : Fin 16) (a : Access) (i : Issue) (r : Answer) : State :=
  match i.treat with
  | .talkthrough g _ w _ =>
    if r.ok then s.respond m true (equaliseBurst g a.be r.data)
    else (s.raiseFault .readError m.val i.port.addr (some w)).respond m true (zeros a.len)
  | _ => s

/-- An answer for the access that `m` has at the memory port, if it has one and the answer can be its. -/
def State.withIssued (s : State) (m : Fin 16) (r : Answer) (f : Access → Issue → State) : State :=
  match s.front m, s.stage m with
  | some a, .issued i => if answerFits a r then f a i else s
  | _, _ => s

end Sys2Proof.Machine
end

