-- ==== Sys2Proof/Machine/Combiner.lean ====
section
/-! DEFINITION. The Uplink Combiner (chapter 4): slots, horizons, allocation and eviction, contributions, expected sets,
flushes, and reads of uplink frames. -/

namespace Sys2Proof.Machine

/-! ## Segment and service counters -/

/-- The late-write counter of a segment rises (R63). -/
def State.countLate (s : State) (g : Fin 12) : State :=
  let e := s.segments.get g
  (s.setSegment g { e with lateWrites := bump e.lateWrites }).listIf (e.lateWrites < Config.counterTop) (.segment g)

/-- The sequence-error counter of a segment rises (R63). -/
def State.countSequence (s : State) (g : Fin 12) : State :=
  let e := s.segments.get g
  (s.setSegment g { e with sequenceErrors := bump e.sequenceErrors }).listIf (e.sequenceErrors < Config.counterTop)
    (.segment g)

/-- The flush-error counter of a service rises (R78). -/
def State.countFlushError (s : State) (v : Fin 8) : State :=
  let e := s.services.get v
  (s.setService v { e with flushErrors := bump e.flushErrors }).listIf (e.flushErrors < Config.counterTop) (.service v)

/-- The eviction counter of a service rises (R78). -/
def State.countEviction (s : State) (v : Fin 8) : State :=
  let e := s.services.get v
  (s.setService v { e with evictions := bump e.evictions }).listIf (e.evictions < Config.counterTop) (.service v)

/-- A slot of the service becomes FLUSHING: frames complete or frames short rises (R69, R78). -/
def State.countFrame (s : State) (v : Fin 8) (outcome : SlotOutcome) : State :=
  let e := s.services.get v
  (s.setService v
    (if outcome = .complete then { e with complete := bump e.complete } else { e with short := bump e.short })).list
    (.service v)

/-! ## Allocation -/

/-- The expected set of a newly allocated slot: the ACTIVE segments that carry the service, in ascending number (R53). -/
def State.expectedSet (s : State) (v : Fin 8) : List (Fin 12) :=
  (List.finRange 12).filter fun g =>
    (s.segments.get g).state == .active && (s.segments.get g).uplinkServices.getLsbD v.val

/-- A slot as allocated for a window and frame index (R52). -/
def State.freshSlot (s : State) (w : Fin 16) (frame : Nat) : Slot :=
  let v := (s.windows.get w).service
  let d := (s.services.get v).deadline
  { state := .filling, window := w, frame := frame, service := v, allocTick := s.now,
    deadlineTick := s.now + BitVec.ofNat 32 d, expected := s.expectedSet v,
    contribs := Vector.replicate 12 contribReset, acc := List.replicate 256 { lo := 0, hi := 0 }, satCount := 0,
    outcome := .none, claimed := false, timer := some (s.timebase + d), held := [], flush := none }

/-- Slot `n` is allocated for a window and frame index (R52). -/
def State.allocate (s : State) (n w : Fin 16) (frame : Nat) : State := (s.setSlot n (s.freshSlot w frame)).list (.slot n)

/-- The lowest-numbered FREE slot that is not claimed (R52). -/
def State.freeSlot (s : State) : Option (Fin 16) :=
  (List.finRange 16).find? (fun n => (s.slots.get n).state == .free && !(s.slots.get n).claimed)

/-- Ticks left to a slot's deadline, modulo 2^32 (R54). -/
def State.remaining (s : State) (n : Fin 16) : Nat := ((s.slots.get n).deadlineTick - s.now).toNat

/-- The FILLING slot whose deadline is nearest, the lowest-numbered among equals (R54). -/
def State.nearestFilling (s : State) : Option (Fin 16) :=
  (List.finRange 16).foldl (fun best n =>
    if (s.slots.get n).state = .filling then
      match best with
      | none => some n
      | some b => if s.remaining n < s.remaining b then some n else some b
    else best) none

/-- The slot that a new pending allocation claims (R54). -/
def State.claimable (s : State) : Option (Fin 16) :=
  match s.nearestFilling with
  | some n => some n
  | none => (List.finRange 16).find? (fun n => (s.slots.get n).state == .flushing && !(s.slots.get n).claimed)

/-- Frame `f` is new against the horizon of a window of `frames` frames (R51). -/
def newFrame (horizon : Option Nat) (frames f : Nat) : Bool :=
  match horizon with
  | none => true
  | some h =>
    let d := (f + frames - h % frames) % frames
    1 ≤ d && d ≤ frames / 2 - 1

/-- The horizon of a window moves to `f`, and the entry is listed (R51). -/
def State.moveHorizon (s : State) (w : Fin 16) (f : Nat) : State :=
  let e := s.windows.get w
  (s.setWindow w { e with horizon := some f }).listIf (e.horizon != some f) (.window w)

/-! ## Contributions -/

/-- What becomes of a burst judged as a contribution (R59): dropped for sequence, dropped as late, dropped and breaking
the contribution, or accepted, with whether it completes the contribution. -/
inductive Verdict where
  | sequence
  | late
  | breaks
  | accepted (completes : Bool)
  deriving DecidableEq, Repr

/-- The judgement of a burst of segment `g` of `n` words that starts at word offset `o` (R59). -/
def Slot.judge (t : Slot) (g : Fin 12) (o n : Nat) : Verdict :=
  let c := t.contribs.get g
  if c.state = .done ∨ c.state = .broken then .sequence
  else if !t.expected.contains g then .late
  else if o ≠ c.next then .breaks
  else .accepted (256 ≤ c.next + n)

/-- The words of a burst as operand lanes (R1). -/
def Access.lanes (a : Access) : List Lanes := List.zipWith operandLanes a.be a.data

/-- The contribution record as the first accepted burst begins it: gain and gated flag are captured (R60, R11, R15). -/
def Contrib.begin (c : Contrib) (gain : Nat) (gate : Gate) : Contrib :=
  if c.state = .none then { c with state := .filling, gain := gain, gated := !gate.isOpen } else c

/-- A slot after an accepted burst of segment `g` with operand lanes `xs` from word offset `o` on (R60). -/
def Slot.accept (t : Slot) (g : Fin 12) (gain : Nat) (gate : Gate) (o : Nat) (xs : List Lanes) : Slot :=
  let c := (t.contribs.get g).begin gain gate
  { t with
    acc := if c.gated then t.acc else addBurst t.acc o c.gain xs
    contribs := setAt t.contribs g
      { c with
        power := c.power + powerOf xs
        next := c.next + xs.length
        state := if 256 ≤ c.next + xs.length then .done else c.state } }

/-- Segment `g` leaves the expected set (R64). -/
def Slot.leave (t : Slot) (g : Fin 12) : Slot := { t with expected := t.expected.filter (fun x => x != g) }

/-- The contribution of segment `g` becomes BROKEN and the segment leaves the expected set (R59 row 3, R62). -/
def Slot.breakContrib (t : Slot) (g : Fin 12) : Slot :=
  ({ t with contribs := setAt t.contribs g { t.contribs.get g with state := .broken } }).leave g

/-- The gate of segment `g` for the slot's service is updated with the power index of its DONE contribution; a change
lists the segment entry (R61, R10). -/
def State.updateGate (s : State) (n : Fin 16) (g : Fin 12) : State :=
  let t := s.slots.get n
  let v := s.services.get t.service
  let e := s.segments.get g
  let old := e.gates.get t.service
  let new := old.update (powerIndex (t.contribs.get g).power) v.openThreshold v.closeThreshold v.holdFrames
  (s.setSegment g { e with gates := setAt e.gates t.service new }).listIf (new != old) (.segment g)

/-- A burst of segment `g` is judged as a contribution to the FILLING slot `n` (R59 to R61). The result says whether the
slot is to be checked for completion. -/
def State.contribute (s : State) (n : Fin 16) (g : Fin 12) (a : Access) (o : Nat) : Bool × State :=
  let t := s.slots.get n
  match t.judge g o a.len with
  | .sequence => (false, s.countSequence g)
  | .late => (false, s.countLate g)
  | .breaks => (true, ((s.setSlot n (t.breakContrib g)).list (.slot n)).countSequence g)
  | .accepted completes =>
    let e := s.segments.get g
    let s' := (s.setSlot n (t.accept g e.uplinkGain (e.gates.get t.service) o (Access.lanes a))).list (.slot n)
    (completes, if completes then s'.updateGate n g else s')

/-- A FILLING slot is complete: every segment of its expected set is DONE (R66). -/
def Slot.isComplete (t : Slot) : Bool :=
  t.state == .filling && t.expected.all (fun g => (t.contribs.get g).state == .done)

/-! ## Flushes -/

/-- Miss accounting of one expected segment (R70): DONE clears the consecutive misses; a miss raises both counters, and a
segment whose consecutive misses rose is handed to the Supervisor. -/
def State.accountSegment (t : Slot) (s : State) (g : Fin 12) : State :=
  let e := s.segments.get g
  if (t.contribs.get g).state = .done then
    (s.setSegment g { e with consecutive := 0 }).listIf (e.consecutive != 0) (.segment g)
  else
    let s' := (s.setSegment g { e with consecutive := bump e.consecutive, total := bump e.total }).listIf
      (e.consecutive < Config.counterTop || e.total < Config.counterTop) (.segment g)
    if e.consecutive < Config.counterTop then { s' with handovers := s'.handovers ++ [g] } else s'

/-- Miss accounting of a slot that becomes FLUSHING (R69 step 5, R70); none for a retired one. -/
def State.accountMisses (s : State) (t : Slot) (outcome : SlotOutcome) : State :=
  if outcome = .retired then s else t.expected.foldl (State.accountSegment t) s

/-- The outcome is SHORT. -/
def SlotOutcome.isShort : SlotOutcome → Bool
  | .none => false
  | .complete => false
  | .deadline => true
  | .evicted => true
  | .retired => true

/-- A slot becomes FLUSHING (R69 steps 1 to 5). DESIGN CHOICE (log 42): its record, the service entry, the status block for an
event that is lost, and the segment entries join the write-back list in this order. -/
def State.enterFlushing (s : State) (n : Fin 16) (outcome : SlotOutcome) : State :=
  let t := s.slots.get n
  let s1 := (s.setSlot n
    { t with state := .flushing, outcome := outcome, satCount := saturationCount t.acc, timer := none }).list (.slot n)
  let s2 := s1.countFrame t.service outcome
  let s3 := if outcome.isShort then s2.raiseEvent .slotShort n.val 0 outcome.shortReason else s2
  s3.accountMisses t outcome

/-- A slot becomes FLUSHING and its flush asks for its translation (R69, R46). -/
def State.beginFlush (s : State) (n : Fin 16) (outcome : SlotOutcome) : Translated × State :=
  (s.enterFlushing n outcome).translate (.flush n) (s.slots.get n).window (s.slots.get n).frame none true

/-- The address of burst `k` of a flush (R71). -/
def burstAddr (phys : Addr) (k : Fin 16) : Addr := phys + BitVec.ofNat 32 (64 * k.val)

/-- The sixteen bursts of a flush are issued, each snooped as it is issued (R71). -/
def State.issueBursts (s : State) (n : Fin 16) (phys : Addr) : State :=
  (List.finRange 16).foldl (fun s k => s.snoop (.flush n k) (burstAddr phys k) 16)
    (s.setSlot n { s.slots.get n with flush := some { phys := phys, left := List.finRange 16, failed := false } })

/-- A read held on a slot is sent to memory (R75). It carries the part's own number (R16). -/
def State.releaseRead (n : Fin 16) (s : State) (m : Fin 16) : State :=
  match s.front m, s.stage m with
  | some a, .heldSlot n' hit => if n' = n then s.sendThrough m a hit .plain true else s
  | _, _ => s

/-- A flush ends (R73 steps 1 to 4): the saturations and the power of the frame are written, the slot becomes FREE, and
the reads held on it are released in the order they began to wait. -/
def State.freeAfterFlush (s : State) (n : Fin 16) : State :=
  let t := s.slots.get n
  let e := s.services.get t.service
  let s1 := (s.setService t.service
    { e with saturated := bumpBy t.satCount e.saturated, lastPower := flushedPower t.acc }).list (.service t.service)
  let s2 := (s1.setSlot n { t with state := .free, claimed := false, held := [], flush := none }).list (.slot n)
  t.held.foldl (State.releaseRead n) s2

/-- A write that waited on the pending allocation is judged as a contribution to the slot, and answered OK (R55, R59). -/
def State.contributeWaiting (n : Fin 16) (s : State) (m : Fin 16) : State :=
  match s.front m, s.stage m, segOf m with
  | some a, .heldPending hit, some g => (s.contribute n g a hit.offset).2.respond m true []
  | _, _, _ => s

/-- A write that waited on a pending allocation of a retiring window is dropped as late (R31, R55). -/
def State.dropWaiting (s : State) (m : Fin 16) : State :=
  match s.front m, s.stage m, segOf m with
  | some _, .heldPending _, some g => (s.countLate g).respond m true []
  | _, _, _ => s

/-- The pending allocation that has claimed a slot (R55). -/
def State.claimOf (s : State) (n : Fin 16) : Option PendingAlloc := s.allocs.find? (fun p => p.slot == n)

/-- The pending allocation ends (R55). -/
def State.endAlloc (s : State) (p : PendingAlloc) : State := { s with allocs := s.allocs.filter (fun q => q != p) }

/-- The claimed slot of a pending allocation has become FREE (R55): with the window enabled it is allocated and the
waiting writes are judged in order; else the writes are dropped as late. -/
def State.serveAlloc (s : State) (p : PendingAlloc) : State :=
  if (s.windows.get p.window).enable then
    p.writers.foldl (State.contributeWaiting p.slot) ((s.endAlloc p).allocate p.slot p.window p.frame)
  else p.writers.foldl State.dropWaiting (s.endAlloc p)

/-- A flush ends (R73): the slot is FREE and a pending allocation that claimed it is served (R55). The slot allocated so
may be complete at once (R68), and its own flush may be refused at once (R45) and end in turn; `fuel` bounds these turns,
each of which ends one pending allocation. -/
def State.endFlush (fuel : Nat) (n : Fin 16) (s : State) : State :=
  match fuel with
  | 0 => s
  | fuel + 1 =>
    let s1 := s.freeAfterFlush n
    match s1.claimOf n with
    | none => s1
    | some p =>
      let s2 := s1.serveAlloc p
      if (s2.slots.get n).isComplete then
        let r := s2.beginFlush n .complete
        match r.1 with
        | .given phys => r.2.issueBursts n phys
        | .refused => State.endFlush fuel n (r.2.countFlushError (s2.slots.get n).service)
        | .waiting => r.2
      else s2

/-- A flush ends (R73). -/
def State.flushEnds (s : State) (n : Fin 16) : State := State.endFlush (s.allocs.length + 1) n s

/-- The flush of slot `n` has its translation refused: no burst is issued, the flush error is counted and the flush ends
(R45). -/
def State.flushRefused (s : State) (n : Fin 16) : State :=
  (s.countFlushError (s.slots.get n).service).flushEnds n

/-- A slot becomes FLUSHING with an outcome, and its flush runs as far as it can (R69 to R71, R45). -/
def State.startFlush (s : State) (n : Fin 16) (outcome : SlotOutcome) : State :=
  let r := s.beginFlush n outcome
  match r.1 with
  | .given phys => r.2.issueBursts n phys
  | .refused => r.2.flushRefused n
  | .waiting => r.2

/-- The completion check (R66): a complete slot is flushed COMPLETE. -/
def State.checkComplete (s : State) (n : Fin 16) : State :=
  if (s.slots.get n).isComplete then s.startFlush n .complete else s

/-- The memory answers burst `k` of the flush of slot `n` (R72, R73). -/
def State.answerFlush (s : State) (n k : Fin 16) (f : Flush) (ok : Bool) : State :=
  let t := s.slots.get n
  let fails := !ok && !f.failed
  let s1 := s.endHazards (.flush n k)
  let s2 := if fails then
      (s1.raiseFault .flushError Config.ownNumber (burstAddr f.phys k) (some t.window)).countFlushError t.service
    else s1
  let left := f.left.filter (fun x => x != k)
  let s3 := s2.setSlot n { t with flush := some { f with left := left, failed := f.failed || !ok } }
  if left.isEmpty then s3.flushEnds n else s3

/-! ## Writes -/

/-- A burst dropped as late and answered OK (R51, R58). -/
def State.dropLate (s : State) (m : Fin 16) (g : Fin 12) : State := (s.countLate g).respond m true []

/-- A burst is judged as a contribution to slot `n`, answered OK, and the slot is checked if the contribution became
DONE or BROKEN, or `fresh` says it has just been allocated (R59, R52). -/
def State.joinSlot (s : State) (n m : Fin 16) (g : Fin 12) (a : Access) (o : Nat) (fresh : Bool) : State :=
  let r := s.contribute n g a o
  let s' := r.2.respond m true []
  if r.1 || fresh then s'.checkComplete n else s'

/-- A write waits on a pending allocation (R55). -/
def State.waitOnAlloc (s : State) (m : Fin 16) (p : PendingAlloc) (hit : WinHit) : State :=
  ({ s with allocs := s.allocs.map fun q => if q = p then { q with writers := q.writers ++ [m] } else q } : State).setStage
    m (.heldPending hit)

/-- A pending allocation is created with the slot it claims, which is evicted if it is FILLING (R54). -/
def State.createAlloc (s : State) (n m : Fin 16) (hit : WinHit) : State :=
  let t := s.slots.get n
  let p : PendingAlloc := { window := hit.window, frame := hit.frame, slot := n, writers := [m] }
  let s1 := (({ s with allocs := s.allocs ++ [p] } : State).setStage m (.heldPending hit)).setSlot n
    { t with claimed := true }
  if t.state = .filling then
    ((s1.countEviction t.service).raiseEvent .slotEvicted n.val 0 0).startFlush n .evicted
  else s1

/-- A write to a frame that no slot and no pending allocation holds is judged against the horizon (R51, R52, R54). -/
def State.judgeHorizon (s : State) (m : Fin 16) (g : Fin 12) (a : Access) (hit : WinHit) : State :=
  let e := s.windows.get hit.window
  if newFrame e.horizon e.frames hit.frame then
    let s1 := s.moveHorizon hit.window hit.frame
    match s1.freeSlot with
    | some n => (s1.allocate n hit.window hit.frame).joinSlot n m g a hit.offset true
    | none =>
      match s1.claimable with
      | some n => s1.createAlloc n m hit
      | none => s
  else s.dropLate m g

/-- The pending allocation that holds a window and frame index (R55). -/
def State.allocOf (s : State) (w : Fin 16) (frame : Nat) : Option PendingAlloc :=
  s.allocs.find? (fun p => p.window == w && p.frame == frame)

/-- A segment's write that has passed its checks reaches the Combiner (R58). -/
def State.judgeUplink (s : State) (m : Fin 16) (g : Fin 12) (a : Access) (hit : WinHit) : State :=
  if (s.segments.get g).state = .excluded then s.dropLate m g
  else match s.slotOf hit.window hit.frame with
    | some n =>
      if (s.slots.get n).state = .filling then s.joinSlot n m g a hit.offset false else s.dropLate m g
    | none =>
      match s.allocOf hit.window hit.frame with
      | some p => s.waitOnAlloc m p hit
      | none => s.judgeHorizon m g a hit

/-- The Combiner is told of a write refused with PARTIAL (R62). -/
def State.tellPartial (s : State) (g : Fin 12) (hit : WinHit) : State :=
  match s.slotOf hit.window hit.frame with
  | none => s
  | some n =>
    let t := s.slots.get n
    let c := (t.contribs.get g).state
    if t.state = .filling ∧ t.expected.contains g ∧ (c = .none ∨ c = .filling) then
      ((s.setSlot n (t.breakContrib g)).list (.slot n)).checkComplete n
    else s

/-- UPLINK write, as it is handed on (R22, R23, R24): the role check, the byte-enable check, the Combiner. -/
def State.treatUplinkWrite (s : State) (m : Fin 16) (a : Access) (hit : WinHit) : State :=
  match segOf m with
  | none => (s.raiseFault .role m.val a.addr (some hit.window)).respondDropped m a
  | some g =>
    if !(s.segments.get g).uplinkServices.getLsbD hit.service.val then
      (s.raiseFault .role m.val a.addr (some hit.window)).respondDropped m a
    else if hasPartial a then
      ((s.raiseFault .partialWord m.val a.addr (some hit.window)).respondDropped m a).tellPartial g hit
    else s.judgeUplink m g a hit

/-! ## Reads -/

/-- The words that a THROUGH read returns (R8, R76): the clamped accumulators, bytes whose enables are off as 0. -/
def Slot.throughData (t : Slot) (o : Nat) (be : List Enables) : List Word :=
  List.zipWith maskWord be (((t.acc.drop o).take be.length).map flushedWord)

/-- UPLINK read, as it is handed on (R74 to R76): held, served from the slot, or sent to memory. -/
def State.treatUplinkRead (s : State) (m : Fin 16) (a : Access) (hit : WinHit) : State :=
  match s.slotOf hit.window hit.frame with
  | none => s.sendThrough m a hit .plain false
  | some n =>
    let t := s.slots.get n
    if (s.services.get hit.service).through then s.respond m true (t.throughData hit.offset a.be)
    else (s.setSlot n { t with held := t.held ++ [m] }).setStage m (.heldSlot n hit)

/-! ## Deadlines, departures, retirement -/

/-- The deadline timer of a slot has expired (R67). -/
def State.deadlineDue (s : State) (n : Fin 16) : Bool :=
  (s.slots.get n).state == .filling &&
    (match (s.slots.get n).timer with | some t => decide (t ≤ s.timebase) | none => false)

/-- The slots that a departing segment leaves: outside FREE, with the segment expected and not DONE (R64). -/
def State.slotsLeft (s : State) (g : Fin 12) : List (Fin 16) :=
  (List.finRange 16).filter fun n =>
    (s.slots.get n).state != .free && (s.slots.get n).expected.contains g &&
      ((s.slots.get n).contribs.get g).state != .done

/-- A departing segment leaves the expected set of one slot (R64). -/
def State.leaveSlot (g : Fin 12) (s : State) (n : Fin 16) : State :=
  (s.setSlot n ((s.slots.get n).leave g)).list (.slot n)

/-- A segment departs from ACTIVE (R64, R104): it leaves its sets, and each FILLING slot that lost it is checked, in
ascending number (log 14). DESIGN CHOICE (log 42): every slot that it leaves is listed before what a flush lists. -/
def State.depart (s : State) (g : Fin 12) : State :=
  (s.slotsLeft g).foldl State.checkComplete ((s.slotsLeft g).foldl (State.leaveSlot g) s)

/-- A FILLING slot of a window that retires becomes FLUSHING (R79). -/
def State.retireSlot (w : Fin 16) (s : State) (n : Fin 16) : State :=
  if (s.slots.get n).state = .filling ∧ (s.slots.get n).window = w then s.startFlush n .retired else s

/-- The FILLING slots of a window that retires become FLUSHING, in ascending number (R79). -/
def State.retireSlots (s : State) (w : Fin 16) : State := (List.finRange 16).foldl (State.retireSlot w) s

end Sys2Proof.Machine
end

