-- ==== Sys2Proof/Machine/Downlink.lean ====
section
/-! DEFINITION. The Downlink Equalizer (chapter 5): downlink writes, equalised reads and talkthrough. -/

namespace Sys2Proof.Machine

/-- The source window of talkthrough for source service `u`: its lowest-numbered enabled UPLINK window (R85). -/
def State.sourceWindow (s : State) (u : Fin 8) : Option (Fin 16) :=
  (List.finRange 16).find? fun w =>
    (s.windows.get w).enable && (s.windows.get w).role == some .uplink && (s.windows.get w).service == u

/-- The source frame of a talkthrough read of downlink frame `f` with offset `t` and `frames` frames in the source window:
(f − t) mod F_U (R86). -/
def sourceFrame (f t frames : Nat) : Nat := (((f : Int) - (t : Int)) % (frames : Int)).toNat

/-- The judgement of a segment's DOWNLINK read with its captured gain (R83, R85, R86): talkthrough while INCIDENT with the
service's talkthrough enabled and a source window, equalised otherwise. -/
def State.judgeDownlink (s : State) (gain : Nat) (hit : WinHit) : Treatment :=
  let d := s.services.get hit.service
  if s.incident && d.talkthrough then
    match s.sourceWindow d.source with
    | some w => .talkthrough gain hit.service w (sourceFrame hit.frame d.offset (s.windows.get w).frames)
    | none => .equalise gain
  else .equalise gain

/-- DOWNLINK read, as it is handed on (R82, R83, R87): a segment's read is judged, and a talkthrough read is checked
against the combine store before it asks for its source's translation; another master's read passes unchanged. -/
def State.treatDownlinkRead (s : State) (m : Fin 16) (a : Access) (hit : WinHit) : State :=
  match segOf m with
  | none => s.sendThrough m a hit .plain false
  | some g =>
    match s.judgeDownlink (s.segments.get g).downlinkGain hit with
    | .talkthrough gain d w frame =>
      match s.slotOf w frame with
      | some _ => s.underrun m a d
      | none => s.sendThrough m a hit (.talkthrough gain d w frame) false
    | t => s.sendThrough m a hit t false

/-- DOWNLINK write, as it is handed on (R82): translated, data unchanged. -/
def State.treatDownlinkWrite (s : State) (m : Fin 16) (a : Access) (hit : WinHit) : State :=
  s.sendThrough m a hit .plain false

end Sys2Proof.Machine
end

