-- ==== Sys2Proof/Machine/BreakIn.lean ====
section
/-! DEFINITION. The Break-In Controller (chapter 7): cue requests, memberships, zone advances, frame records, and programme
reads and writes. -/

namespace Sys2Proof.Machine

/-! ## Memberships -/

/-- The cue waits in the zone (R113). -/
def CueEntry.waitsIn (e : CueEntry) (z : Fin 8) : Bool := e.waiting.getLsbD z.val

/-- The cue plays in some zone (R113). -/
def State.plays (s : State) (c : Fin 32) : Bool := (List.finRange 8).any (playingIn s.zones c)

/-- The cue is suspended in some zone (R113). -/
def State.suspended (s : State) (c : Fin 32) : Bool := (List.finRange 8).any (suspendedIn s.zones c)

/-- The cue holds a membership in some zone (R119). -/
def State.member (s : State) (c : Fin 32) : Bool := (s.cues.get c).waiting != 0 || s.plays c || s.suspended c

/-- The cue event of a cue (R120): its index as object, its tag, and a reason. -/
def State.raiseCue (s : State) (k : EventKind) (c : Fin 32) (reason : Nat) : State :=
  s.raiseEvent k c.val (s.cues.get c).tag reason

/-- The reason with which a cue ends (R119): STOPPED if it is marked, else the one that the removal gives. -/
def CueEntry.endReason (e : CueEntry) (reason : CueReason) : CueReason := if e.stopped then .stopped else reason

/-- The end check of R119: a cue that is not IDLE and holds no membership returns to IDLE with its last end reason set,
and CUE_END is raised. DESIGN CHOICE (log 42): the entry is listed before the status block, if the event is lost. -/
def State.endCheck (s : State) (c : Fin 32) (reason : CueReason) : State :=
  let e := s.cues.get c
  if e.state ≠ .idle ∧ s.member c = false then
    ((s.setCue c { e with state := .idle, stopped := false, lastEnd := e.endReason reason }).list (.cue c)).raiseCue
      .cueEnd c (e.endReason reason).code
  else s

/-- Every waiting membership of the cue is removed (R117, R118, R145). -/
def State.dropWaits (s : State) (c : Fin 32) : State :=
  (s.setCue c { s.cues.get c with waiting := 0 }).listIf ((s.cues.get c).waiting != 0) (.cue c)

/-- The cue is cancelled (R117). -/
def State.cancelCue (s : State) (c : Fin 32) : State := (s.dropWaits c).endCheck c .cancelled

/-! ## Requests -/

/-- Another cue that is not IDLE has the same tag (R115). -/
def State.tagHeld (s : State) (c : Fin 32) : Bool :=
  (List.finRange 32).any fun d =>
    d != c && (s.cues.get d).state != .idle && (s.cues.get d).tag == (s.cues.get c).tag

/-- The judgement of a START (R115): none accepts. -/
def State.judgeStart (s : State) (c : Fin 32) : Option CueReason :=
  let e := s.cues.get c
  if e.state ≠ .idle then some .busy
  else if e.zones = 0 then some .noZone
  else if e.level = 0 ∨ (e.level = 7 ∧ s.incident = false) then some .level
  else if s.tagHeld c then some .tagClash
  else none

/-- A START is refused (R115): the last end reason is set, which lists the cue if it changes (R159), and CUE_REFUSED is
raised. DESIGN CHOICE (log 42): the entry is listed before the status block, if the event is lost. -/
def State.refuseStart (s : State) (c : Fin 32) (r : CueReason) : State :=
  ((s.setCue c { s.cues.get c with lastEnd := r }).listIf ((s.cues.get c).lastEnd != r) (.cue c)).raiseCue .cueRefused c
    r.code

/-- A START is accepted (R115): the cue is QUEUED and waits in every zone of its list. -/
def State.acceptStart (s : State) (c : Fin 32) : State :=
  let e := s.cues.get c
  (s.setCue c { e with state := .queued, waiting := e.zones, lastEnd := .none, stopped := false }).list (.cue c)

/-- The cue is cancelled if it is QUEUED (R116). -/
def State.cancelIfQueued (s : State) (c : Fin 32) : State := if (s.cues.get c).state = .queued then s.cancelCue c else s

/-- A START (R115). A host's START refused with TAG_CLASH cancels every QUEUED cue in ascending index (R116); one made on
incident entry cancels nothing (R144). -/
def State.startCue (s : State) (c : Fin 32) (host : Bool) : State :=
  match s.judgeStart c with
  | none => s.acceptStart c
  | some r =>
    if host ∧ r = .tagClash then (List.finRange 32).foldl State.cancelIfQueued (s.refuseStart c r) else s.refuseStart c r

/-- The stack entries of a cue are removed from a zone (R118); a zone that loses one is listed. -/
def State.dropStack (c : Fin 32) (s : State) (z : Fin 8) : State :=
  let r := s.zones.get z
  if suspendedIn s.zones c z then
    (s.setZone z { r with stack := r.stack.filter (fun e => e.cue != c) }).list (.zone z)
  else s

/-- A STOP (R118). DESIGN CHOICE (log 42): the zones that lose a stack entry join the write-back list in ascending number,
then the cue. -/
def State.stopCue (s : State) (c : Fin 32) : State :=
  let e := s.cues.get c
  let clear (s : State) (st : CueState) : State :=
    (((List.finRange 8).foldl (State.dropStack c) s).setCue c { e with waiting := 0, stopped := true, state := st }).list
      (.cue c)
  match e.state with
  | .idle => s
  | .stopping => s
  | .queued => (clear s .queued).endCheck c .stopped
  | .active => if s.plays c then clear s .stopping else (clear s .active).endCheck c .stopped

/-! ## Timing windows -/

/-- The timing window of a zone (R122). -/
def State.timingWindow (s : State) (z : Fin 8) : Option (Fin 16) :=
  let v := (s.zones.get z).timing
  let e := s.services.get v
  if e.enable && e.program && e.breakIn then
    (List.finRange 16).find? fun w =>
      (s.windows.get w).enable && (s.windows.get w).role == some .program && (s.windows.get w).service == v
  else none

/-- A zone whose timing window is no longer `before` loses both frame records (R122). -/
def State.followTiming (before : State) (s : State) (z : Fin 8) : State :=
  let r := s.zones.get z
  if s.timingWindow z = before.timingWindow z then s
  else (s.setZone z { r with current := none, previous := none }).listIf (r.current.isSome || r.previous.isSome) (.zone z)

/-- After an event that may change timing windows, each zone with a different one loses its frame records (R122). DESIGN
CHOICE (log 42): they join the write-back list in ascending number. -/
def State.afterTiming (before s : State) : State := (List.finRange 8).foldl (State.followTiming before) s

/-! ## Advances -/

/-- The clip frame address for k (R129, R112). -/
def CueEntry.clipFrame (e : CueEntry) (k : Nat) : Addr := frameBase e.clip + BitVec.ofNat 32 (k % e.length * 1024)

/-- A frame record of zone `z` for frame `f` from its active cue and its present duck gain (R125, R129). -/
def State.recordFor (s : State) (z : Fin 8) (f : Nat) : FrameRecord :=
  let r := s.zones.get z
  match r.active with
  | some a =>
    let e := s.cues.get a.cue
    { frame := f, cue := some a.cue, clip := e.clipFrame a.k, gd := r.gd, gi := e.gi }
  | none => { frame := f, cue := none, clip := 0, gd := r.gd, gi := 0 }

/-- k after one more frame; with repeats 0 it returns to 0 at the clip length (R126). -/
def CueEntry.nextK (e : CueEntry) (k : Nat) : Nat := if e.repeats = 0 ∧ e.length ≤ k + 1 then 0 else k + 1

/-- The active cue ends at k (R126). -/
def CueEntry.endsAt (e : CueEntry) (k : Nat) : Bool :=
  (e.repeats != 0 && k == e.length * e.repeats) || e.state == .stopping

/-- Progress (R126). -/
def State.progress (s : State) (z : Fin 8) : State :=
  let r := s.zones.get z
  match r.active with
  | none => s
  | some a =>
    let e := s.cues.get a.cue
    let k := e.nextK a.k
    if e.endsAt k then
      ((s.setZone z { r with active := none }).list (.cue a.cue)).endCheck a.cue .completed
    else s.setZone z { r with active := some { a with k := k } }

/-- The waiting cue of the highest level above `floor` in the zone, the lowest index among equals (R127, R128). -/
def State.bestWaiting (s : State) (z : Fin 8) (floor : Nat) : Option (Fin 32) :=
  (List.finRange 32).foldl (fun best c =>
    if (s.cues.get c).waitsIn z && decide (floor < (s.cues.get c).level) then
      match best with
      | none => some c
      | some b => if (s.cues.get b).level < (s.cues.get c).level then some c else some b
    else best) none

/-- A waiting cue starts in the zone with k = 0 over a stack (R127, R128): a QUEUED one becomes ACTIVE and raises
CUE_STARTED with the zone as reason. DESIGN CHOICE (log 42): the entry is listed before the status block, if the event is
lost. -/
def State.startIn (s : State) (z : Fin 8) (c : Fin 32) (stack : List StackEntry) : State :=
  let r := s.zones.get z
  let e := s.cues.get c
  let s' := ((s.setZone z { r with active := some { cue := c, k := 0 }, stack := stack }).setCue c
    { e with
      waiting := e.waiting &&& ~~~(BitVec.twoPow 8 z.val)
      state := if e.state = .queued then .active else e.state }).list (.cue c)
  if e.state = .queued then s'.raiseCue .cueStarted c z.val else s'

/-- Selection (R127, R128). -/
def State.select (s : State) (z : Fin 8) : State :=
  let r := s.zones.get z
  match r.active with
  | some a =>
    match s.bestWaiting z (s.cues.get a.cue).level with
    | some c =>
      (s.list (.cue a.cue)).startIn z c ({ cue := a.cue, level := (s.cues.get a.cue).level, k := a.k } :: r.stack)
    | none => s
  | none =>
    match r.stack with
    | [] =>
      match s.bestWaiting z 0 with
      | some c => s.startIn z c []
      | none => s
    | top :: below =>
      match s.bestWaiting z top.level with
      | some c => s.startIn z c r.stack
      | none => (s.setZone z { r with active := some { cue := top.cue, k := top.k }, stack := below }).list (.cue top.cue)

/-- The duck target of the zone's active cue, or unity with none (R13). -/
def State.duckTarget (s : State) (z : Fin 8) : Nat :=
  match (s.zones.get z).active with
  | some a => (s.cues.get a.cue).duck
  | none => Config.unity

/-- The level of the zone's active cue, or 0 with none: the mask level after selection (R129). -/
def State.activeLevel (s : State) (z : Fin 8) : Nat :=
  match (s.zones.get z).active with
  | some a => (s.cues.get a.cue).level
  | none => 0

/-- The mask level and the duck gain after selection (R129, R13). -/
def State.ramp (s : State) (z : Fin 8) : State :=
  let r := s.zones.get z
  s.setZone z { r with mask := s.activeLevel z, gd := rampStep (s.duckTarget z) r.gd r.ramp }

/-- The forming of the new current record (R129). -/
def State.formRecord (s : State) (z : Fin 8) (frames : Nat) : State :=
  let r := s.zones.get z
  match r.current with
  | some c =>
    (s.setZone z { r with previous := some c, current := some (s.recordFor z ((c.frame + 1) % frames)) }).list (.zone z)
  | none => s

/-- One advance of a zone: progress, selection, ramp, record (R126 to R129). DESIGN CHOICE (log 42): the cues join the
write-back list as they change, the zone last. -/
def State.advance (s : State) (z : Fin 8) (frames : Nat) : State :=
  (((s.progress z).select z).ramp z).formRecord z frames

/-- An advance of `d` frames is taken as `d` single advances (R130). -/
def State.advanceBy (z : Fin 8) (frames : Nat) : Nat → State → State
  | 0, s => s
  | d + 1, s => State.advanceBy z frames d (s.advance z frames)

/-! ## Programme traffic -/

/-- The mix values of a record (R133). -/
def FrameRecord.mix (r : FrameRecord) : MixValues :=
  { clip := r.cue.map (fun _ => r.clip), gd := r.gd, gi := r.gi }

/-- A read mixed from a record, or unmixed with none (R132). -/
def treatmentOf (r : Option FrameRecord) : Treatment :=
  match r with
  | some r => .mix r.mix
  | none => .plain

/-- The lag-read counter of a segment rises (R124). -/
def State.countLag (s : State) (g : Fin 12) : State :=
  let e := s.segments.get g
  (s.setSegment g { e with lagReads := bump e.lagReads }).listIf (e.lagReads < Config.counterTop) (.segment g)

/-- The judgement of a read of the timing window against its zone (R124, R125): how the read is treated, and the state
after it. -/
def State.judgeTiming (s : State) (g : Fin 12) (z : Fin 8) (hit : WinHit) : Treatment × State :=
  let frames := (s.windows.get hit.window).frames
  let r := s.zones.get z
  match r.current with
  | none =>
    let new := s.recordFor z hit.frame
    (.mix new.mix, (s.setZone z { r with current := some new, previous := none }).list (.zone z))
  | some c =>
    let d := (hit.frame + frames - c.frame % frames) % frames
    if d = 0 then (.mix c.mix, s)
    else if d = frames - 1 then (treatmentOf r.previous, s)
    else if d ≤ frames / 2 - 1 then
      let s' := State.advanceBy z frames d s
      (treatmentOf (s'.zones.get z).current, s')
    else (.plain, s.countLag g)

/-- The judgement of a segment's programme read (R124, R132): only a service with break-in is mixed; another window than
the zone's timing window takes the zone's current record and does not move the zone. -/
def State.judgeProgram (s : State) (g : Fin 12) (hit : WinHit) : Treatment × State :=
  let z := (s.segments.get g).zone
  if (s.services.get hit.service).breakIn then
    if s.timingWindow z = some hit.window then s.judgeTiming g z hit
    else (treatmentOf (s.zones.get z).current, s)
  else (.plain, s)

/-- PROGRAM read, as it is handed on (R109, R124, R136): a segment's read is judged, then asks for its translation;
another master's read passes unchanged. -/
def State.treatProgramRead (s : State) (m : Fin 16) (a : Access) (hit : WinHit) : State :=
  match segOf m with
  | none => s.sendThrough m a hit .plain false
  | some g => (s.judgeProgram g hit).2.sendThrough m a hit (s.judgeProgram g hit).1 false

/-- PROGRAM write, as it is handed on (R136): translated, data unchanged, no zone moved. -/
def State.treatProgramWrite (s : State) (m : Fin 16) (a : Access) (hit : WinHit) : State :=
  s.sendThrough m a hit .plain false

end Sys2Proof.Machine
end

