-- ==== Sys2Proof/Machine/Supervisor.lean ====
section
/-! DEFINITION. The Segment Supervisor (chapter 6): segment states, activity timers, exclusion, departures. -/

namespace Sys2Proof.Machine

/-- The tick at which an activity timer started now expires: none while the stall timeout is 0 (R99). -/
def State.stallTick (s : State) (e : SegmentEntry) : Option Nat :=
  if e.stallTimeout = 0 then none else some (s.timebase + Config.ticksPerMs * e.stallTimeout)

/-- A segment event, with the segment number 1 to 12 as its object (R96). -/
def State.raiseSegment (s : State) (k : EventKind) (g : Fin 12) : State := s.raiseEvent k (g.val + 1) 0 0

/-- An access of an ACTIVE segment's master restarts the activity timer (R99). -/
def State.restartTimer (s : State) (g : Fin 12) : State :=
  s.setSegment g { s.segments.get g with timer := s.stallTick (s.segments.get g) }

/-- A STALLED segment resumes (R101). DESIGN CHOICE (log 42): listed as at a stall. -/
def State.resume (s : State) (g : Fin 12) : State :=
  let e := s.segments.get g
  ((s.setSegment g { e with state := .active, timer := s.stallTick e }).raiseSegment .segmentResumed g).list (.segment g)

/-- The notice of an access of a segment's master (R18, R99, R101). -/
def State.noticeSegment (s : State) (g : Fin 12) : State :=
  match (s.segments.get g).state with
  | .offline => s
  | .active => s.restartTimer g
  | .stalled => s.resume g
  | .excluded => s

/-- The notice that the Classifier gives of each access of a segment link engine (R18). -/
def State.noticeAccess (s : State) (m : Fin 16) : State :=
  match segOf m with
  | none => s
  | some g => s.noticeSegment g

/-- Enable 1 written to a segment entry (R97). -/
def State.enableSegment (s : State) (g : Fin 12) : State :=
  let e := s.segments.get g
  if e.state = .offline then
    (s.setSegment g
      { e with
        enable := true
        state := .active
        consecutive := 0
        gates := Vector.ofFn (fun v => { isOpen := true, hold := (s.services.get v).holdFrames })
        timer := s.stallTick e }).list (.segment g)
  else s

/-- A departure notice for the Combiner, if the segment was ACTIVE (R104). DEDUCED (log 44): it is taken before anything else
happens in the part. -/
def State.noticeDeparture (s : State) (g : Fin 12) (was : SegState) : State :=
  if was = .active then { s with departures := s.departures ++ [g] } else s

/-- Enable 0 written to a segment entry (R98). -/
def State.disableSegment (s : State) (g : Fin 12) : State :=
  let e := s.segments.get g
  if e.state = .offline then s
  else ((s.setSegment g { e with enable := false, state := .offline, timer := none }).noticeDeparture g e.state).list
    (.segment g)

/-- The activity timer of an ACTIVE segment has expired (R99, R100). -/
def State.stallDue (s : State) (g : Fin 12) : Bool :=
  (s.segments.get g).state == .active &&
    (match (s.segments.get g).timer with | some t => decide (t ≤ s.timebase) | none => false)

/-- The segment stalls (R100). DESIGN CHOICE (log 42): the status block, if the event is lost, is listed before the segment
entry. -/
def State.stall (s : State) (g : Fin 12) : State :=
  let e := s.segments.get g
  (((s.setSegment g { e with state := .stalled, timer := none }).raiseSegment .segmentStalled g).noticeDeparture g
    e.state).list (.segment g)

/-- The segment is excluded (R102). DESIGN CHOICE (log 42): listed as at a stall. -/
def State.exclude (s : State) (g : Fin 12) : State :=
  let e := s.segments.get g
  (((s.setSegment g { e with state := .excluded, timer := none }).raiseSegment .segmentExcluded g).noticeDeparture g
    e.state).list (.segment g)

/-- The comparison made at a hand-over (R102): the limit is not 0 and the count has reached it. -/
def State.limitReached (s : State) (g : Fin 12) : Bool :=
  s.request.missLimit != 0 && decide (s.request.missLimit ≤ (s.segments.get g).consecutive)

/-- The Supervisor judges a hand-over of the segment (R102). -/
def State.judgeHandover (s : State) (g : Fin 12) : State :=
  match (s.segments.get g).state with
  | .offline => s
  | .active => if s.limitReached g then s.exclude g else s
  | .stalled => if s.limitReached g then s.exclude g else s
  | .excluded => s

/-- The Supervisor takes a hand-over of the segment, if there is one (R102). -/
def State.takeHandover (s : State) (g : Fin 12) : State :=
  if s.handovers.contains g then ({ s with handovers := s.handovers.erase g } : State).judgeHandover g else s

/-- The Combiner takes a departure notice of the segment, if there is one (R104, R64). -/
def State.takeDeparture (s : State) (g : Fin 12) : State :=
  if s.departures.contains g then ({ s with departures := s.departures.erase g } : State).depart g else s

/-- The Combiner takes departure notices in the order given (R104). -/
def State.takeDepartures (gs : List (Fin 12)) (s : State) : State := gs.foldl State.takeDeparture s

/-- The Combiner takes every departure notice that it has been given (R104, R65; log 44). -/
def State.giveNotices (s : State) : State :=
  match s.departures with
  | [] => s
  | gs => (s.takeDepartures gs).settle

end Sys2Proof.Machine
end

