-- ==== Sys2Proof/Machine/Taking.lean ====
section
/-! DEFINITION. Taking an access for service (R18, R20, R21, R23, R25): classification, the two notices, and the checks up
to the hand-over to a block. -/

namespace Sys2Proof.Machine

/-- A sample-window access of an OFFLINE segment (R21): dropped or answered with zeros, and counted. -/
def State.dropOffline (s : State) (m : Fin 16) (g : Fin 12) (a : Access) : State :=
  let e := s.segments.get g
  ((s.setSegment g { e with offlineAccesses := bump e.offlineAccesses }).listIf (e.offlineAccesses < Config.counterTop)
    (.segment g)).respondDropped m a

/-- The segment of the access's master is OFFLINE (R21). -/
def State.offlineSegment (s : State) (m : Fin 16) : Option (Fin 12) :=
  match segOf m with
  | none => none
  | some g => if (s.segments.get g).state = .offline then some g else none

/-- The access is classified and is to be handed on to its block before anything else happens (R25; log 5). -/
def State.handOn (s : State) (m : Fin 16) (c : Cls) : State := { s.setStage m (.taken c) with due := .hand m :: s.due }

/-- The byte-enable check of every sample-window access but an UPLINK write, whose role check comes before it (R22, R23):
a write with a partial word is dropped, a read is served in full. DEDUCED (log 39): a read served in full goes on to its
translation, so a refusal there raises its own fault (R45) beside PARTIAL. -/
def State.checkPartial (s : State) (m : Fin 16) (a : Access) (hit : WinHit) : State :=
  let s' := s.raiseFault .partialWord m.val a.addr (some hit.window)
  if hasPartial a then
    match a.dir with
    | .read => s'.handOn m (.window hit)
    | .write => if hit.role = .uplink then s.handOn m (.window hit) else s'.respondDropped m a
  else s.handOn m (.window hit)

/-- The checks on a classified access (R20 to R23, R26): the burst boundary, the segment state, byte enables; a
control-region access is held while the image write-out runs. -/
def State.check (s : State) (m : Fin 16) (a : Access) : State :=
  match boundaryFault (s.classify a.addr) (s.classify (lastAddr a)) with
  | some w => (s.raiseFault .boundary m.val a.addr w).respondDropped m a
  | none =>
    match s.classify a.addr with
    | .control => if s.writeOut.isSome then s.setStage m .heldWriteOut else s.handOn m .control
    | .unwindowed => s.handOn m .unwindowed
    | .window hit =>
      match s.offlineSegment m with
      | some g => s.dropOffline m g a
      | none => s.checkPartial m a hit

/-- The notices given when an access is classified (R18): to the Supervisor, and for a write to the Translator (R43). -/
def State.notices (s : State) (m : Fin 16) (a : Access) : State :=
  match a.dir with
  | .read => s.noticeAccess m
  | .write => (s.noticeAccess m).snoop (.master m) a.addr a.len

/-- The oldest access of `m` is taken for service, if it waits for that (R25, R18). -/
def State.takeAccess (s : State) (m : Fin 16) : State :=
  match s.resetLow, s.front m, s.stage m with
  | false, some a, .waiting => (s.notices m a).check m a
  | _, _, _ => s

end Sys2Proof.Machine
end

