-- ==== Sys2Proof/Machine/Incident.lean ====
section
/-! DEFINITION. Incident Control (chapter 8): the incident line and its qualification, the latch, entry and exit,
protected writes and barring. -/

namespace Sys2Proof.Machine

/-- What changed the incident state (R143, R145): a qualified change of the line, or a latch write of a master. -/
inductive Cause where
  | line
  | latch (m : Fin 16)
  deriving DecidableEq, Repr

/-- The object of INCIDENT_ENTER and INCIDENT_EXIT (R143, R145). -/
def Cause.object : Cause → Nat
  | .line => 0
  | .latch m => m.val

/-- The reason of INCIDENT_ENTER and INCIDENT_EXIT: 1 LINE, 2 LATCH (R155). -/
def Cause.reason : Cause → Nat
  | .line => 1
  | .latch _ => 2

/-! ## Entry and exit -/

/-- The auto-start of one cue on entry (R144). -/
def State.autoStart (s : State) (c : Fin 32) : State :=
  if (s.cues.get c).autoStart ∧ (s.cues.get c).state = .idle then s.startCue c false else s

/-- The entry actions, in order (R143, R144). -/
def State.enterIncident (s : State) (c : Cause) : State :=
  (List.finRange 32).foldl State.autoStart
    { s.raiseEvent .incidentEnter c.object 0 c.reason with refusals := Vector.replicate 16 0 }

/-- What the exit does to one cue (R145): a level-7 cue that is not IDLE leaves its waiting memberships and is checked for
its end. -/
def State.exitCue (s : State) (c : Fin 32) : State :=
  if (s.cues.get c).level = 7 ∧ (s.cues.get c).state ≠ .idle then (s.dropWaits c).endCheck c .cancelled else s

/-- The exit actions (R145, R146). -/
def State.exitIncident (s : State) (c : Cause) : State :=
  { (List.finRange 32).foldl State.exitCue (s.raiseEvent .incidentExit c.object 0 c.reason) with
    barred := 0
    refusals := Vector.replicate 16 0 }

/-- After a change of the latch or the qualified level the incident state is derived anew, its actions are carried out if
it has changed, and the status block is listed (R142). -/
def State.rederive (before s : State) (c : Cause) : State :=
  (if before.incident = false ∧ s.incident = true then s.enterIncident c
    else if before.incident = true ∧ s.incident = false then s.exitIncident c
    else s).list .status

/-! ## The latch (R141) -/

/-- A latch request other than 0 of master `m` (R141). -/
def State.setLatch (s : State) (m : Fin 16) : State :=
  if s.latch then s else State.rederive s { s with latch := true } (.latch m)

/-- A latch request of 0 of master `m` (R141): only the incident master's clears. -/
def State.clearLatch (s : State) (m : Fin 16) : State :=
  if s.latch ∧ m = s.incidentMaster then State.rederive s { s with latch := false } (.latch m) else s

/-! ## The line (R140) -/

/-- The qualification timer after the raw level has become `high` (R140): it runs while the raw level differs from the
qualified level, from the moment it first differed. -/
def State.qualTimerFor (s : State) (high : Bool) : Option Nat :=
  if high = s.qualified then none
  else match s.qualTimer with
    | some t => some t
    | none => some (s.timebase + Config.qualificationTicks)

/-- The raw level of the incident line changes (R140). While the reset pin is low nothing watches it (R165). -/
def State.changeLine (s : State) (high : Bool) : State :=
  if s.resetLow then { s with line := high } else { s with line := high, qualTimer := s.qualTimerFor high }

/-- The qualification timer has expired (R140). -/
def State.qualDue (s : State) : Bool :=
  match s.qualTimer with
  | some t => !s.resetLow && decide (t ≤ s.timebase)
  | none => false

/-- The qualified level takes the raw level (R140): a rise sets the latch. -/
def State.qualify (s : State) : State :=
  State.rederive s { s with qualified := s.line, qualTimer := none, latch := s.latch || s.line } .line

/-! ## Protected writes (R149, R150) -/

/-- The refusal count of a master rises, and at 8 the master is barred (R150). -/
def State.refuse (s : State) (m : Fin 16) : State :=
  let n := (s.refusals.get m) + 1
  let s' := { s with refusals := setAt s.refusals m (min n Config.barringCount) }
  if Config.barringCount ≤ n then
    (({ s' with barred := s'.barred ||| BitVec.twoPow 16 m.val } : State).raiseEvent .masterBarred m.val 0 0).list .status
  else s'

/-- The writer is barred (R150). -/
def State.isBarred (s : State) (m : Fin 16) : Bool := s.barred.getLsbD m.val

/-- What a protected write adds up to, once for the access (R149): the fault, the protected-write count, the refusal
count. -/
def State.countProtected (s : State) (m : Fin 16) (addr : Addr) : State :=
  let s1 := s.raiseFault .protectedWrite m.val addr none
  (({ s1 with protectedWrites := bump s1.protectedWrites } : State).listIf (s1.protectedWrites < Config.counterTop)
    .status).refuse m

end Sys2Proof.Machine
end

