-- ==== Sys2Proof/Machine/Monitor.lean ====
section
/-! DEFINITION. The Control Region Monitor (chapter 9): which bytes of a host write are masked, what the others do, and
how a read is held. -/

namespace Sys2Proof.Machine

/-! ## The bytes of a write -/

/-- An enabled byte of a control-region write: its offset in the region and its value. -/
structure WByte where
  off : Nat
  val : Byte
  deriving DecidableEq, Repr

/-- The offset of an address in the control region (R153). -/
def State.regionOffset (s : State) (a : Addr) : Nat := (a - s.regionBase).toNat

/-- Byte `j` of word `i` of a write that starts at region offset `o`, if it is enabled. -/
def wordByte (o i : Nat) (be : Enables) (w : Word) (j : Nat) : Option WByte :=
  if be.getLsbD j then some { off := o + 4 * i + j, val := BitVec.ofNat 8 (w.toNat / 256 ^ j) } else none

/-- The enabled bytes of a write, in ascending address. -/
def State.writeBytes (s : State) (a : Access) : List WByte :=
  ((a.be.zip a.data).zipIdx).flatMap fun x =>
    (List.range 4).filterMap (wordByte (s.regionOffset a.addr) x.2 x.1.1 x.1.2)

/-- The value that the bytes carry for a region offset. -/
def carried (bs : List WByte) (off : Nat) : Option Byte := (bs.find? (fun b => b.off == off)).map (·.val)

/-! ## Masking (R156, R157, R148) -/

/-- The fields of a service entry that stay writable while it is enabled (R157): the enable, hold frames, talkthrough
enable and the two gate thresholds. -/
def serviceUnlocked (o : Nat) : Bool := o == 0 || o == 6 || o == 7 || (8 ≤ o && o < 16)

/-- The byte is locked (R157). -/
def State.locked (s : State) (off : Nat) : Bool :=
  match areaOf off with
  | .record (.window w) o => o != 0 && ((s.windows.get w).enable || (s.windows.get w).retiring)
  | .record (.service v) o => !serviceUnlocked o && (s.services.get v).enable
  | .record (.cue c) o => o != 0 && (s.cues.get c).state != .idle
  | .record _ _ => false
  | .request _ => false
  | .reserved => false
  | .ring => false
  | .plain => false

/-- The bytes left by barring, ownership and field locking (R156). -/
def State.unlockedBytes (s : State) (m : Fin 16) (a : Access) : List WByte :=
  if s.isBarred m then [] else (s.writeBytes a).filter (fun b => hostWritable b.off && !s.locked b.off)

/-- The service is a rescue service (R148). -/
def State.rescue (s : State) (v : Fin 8) : Bool := (s.services.get v).rescue

/-- The value carried for a region offset satisfies `p`. -/
def carries (bs : List WByte) (off : Nat) (p : Byte → Bool) : Bool :=
  match carried bs off with
  | some b => p b
  | none => false

/-- The byte lies on a field that is protected while INCIDENT, judged on the values held and on those that the bytes `bs`
carry (R148). Values carried count as normalised (log 16). -/
def State.protects (s : State) (bs : List WByte) (off : Nat) : Bool :=
  match areaOf off with
  | .record (.service v) _ =>
    s.rescue v || carries bs (recordOffset (.service v) + 2) (fun b => b != 0)
  | .record (.window w) _ =>
    s.rescue (s.windows.get w).service ||
      carries bs (recordOffset (.window w) + 2) (fun b => s.rescue (Fin.ofNat 8 b.toNat))
  | .record (.segment _) _ => true
  | .record (.zone _) _ => true
  | .record (.cue c) _ =>
    (s.cues.get c).level == 7 || carries bs (recordOffset (.cue c) + 2) (fun b => b.toNat % 8 == 7)
  | .record .status _ => false
  | .record .accessFault _ => false
  | .record .memoryFault _ => false
  | .record (.slot _) _ => false
  | .request o => (o == 0 && carries bs off (fun b => b != 0)) || (o == 1 && carries bs off (fun b => b == 0))
  | .reserved => false
  | .ring => false
  | .plain => false

/-- The bytes masked by protection: none in NORMAL and none of the incident master's (R148). -/
def State.protectedBytes (s : State) (m : Fin 16) (a : Access) : List WByte :=
  if s.incident && m != s.incidentMaster then
    (s.unlockedBytes m a).filter (fun b => s.protects (s.unlockedBytes m a) b.off)
  else []

/-- The unmasked bytes (R156). -/
def State.keptBytes (s : State) (m : Fin 16) (a : Access) : List WByte :=
  (s.unlockedBytes m a).filter (fun b => !(s.protectedBytes m a).contains b)

/-- The byte enables left by the masking (R153, R156). -/
def State.keptEnables (s : State) (m : Fin 16) (a : Access) : List Enables :=
  let offs := (s.keptBytes m a).map (·.off)
  a.be.zipIdx.map fun x =>
    BitVec.ofNat 4 (maskOf (List.finRange 4) (fun j => offs.contains (s.regionOffset a.addr + 4 * x.2 + j.val)))

/-- The address of the first word that has a masked protected byte (R149). -/
def State.firstProtected (s : State) (m : Fin 16) (a : Access) : Addr :=
  match s.protectedBytes m a with
  | b :: _ => s.regionBase + BitVec.ofNat 32 (b.off - b.off % 4)
  | [] => a.addr

/-- The write is held by the write-back in flight (R160): its unmasked bytes fall on host-owned bytes that it is writing. -/
def State.writeHeld (s : State) (m : Fin 16) (a : Access) : Bool :=
  match s.writeBack with
  | none => false
  | some b => (s.keptBytes m a).any (fun x => (b.hostBytes.map (fun o => recordOffset b.id + o)).contains x.off)

/-! ## The copy of a record and its normalisation (R156, R158) -/

/-- The bytes of a record as the part holds them, with the unmasked bytes of a write laid over them. -/
def State.overlay (s : State) (bs : List WByte) (id : RecordId) (o : Nat) : Byte :=
  (carried bs (recordOffset id + o)).getD (recordByte s.view id o)

/-- The record, listed with the host-owned bytes that the part has changed, if there are any (R158, R159). -/
def State.listDirty (s : State) (id : RecordId) (dirty : List Nat) : State :=
  if dirty = [] then s else s.listBytes id dirty

/-- Byte 0 of a record, if a write carries it and the part does not hold it as written: an enable or a request that the
part writes back (R158, R159). -/
def State.dirtyAction (s : State) (bs : List WByte) (id : RecordId) : List Nat :=
  if carries bs (recordOffset id) (fun b => b != recordByte s.view id 0) then [0] else []

/-! ## Windows (R28 to R30) -/

/-- The ranges of `n` bytes from `a` and `k` bytes from `b` overlap, modulo 2^32 (log 9). -/
def rangesOverlap (a : Addr) (n : Nat) (b : Addr) (k : Nat) : Bool :=
  decide ((b - a).toNat < n) || decide ((a - b).toNat < k)

/-- The map region of entry `e` overlaps the range of entry `f` (R35, R29). -/
def mapOverlaps (e f : WindowEntry) : Bool :=
  rangesOverlap (mapEntryAddr e.translation.2 0) (4 * e.frames) f.base (1024 * f.frames)

/-- The map check of R29 for window `w` with entry `e`. -/
def State.mapClash (s : State) (w : Fin 16) (e : WindowEntry) : Bool :=
  (e.mapped && (mapOverlaps e e || (List.finRange 16).any fun x =>
      x != w && (s.windows.get x).enable && mapOverlaps e (s.windows.get x))) ||
    (List.finRange 16).any fun x =>
      x != w && ((s.windows.get x).enable || (s.windows.get x).retiring) && (s.windows.get x).translation.1 &&
        mapOverlaps (s.windows.get x) e

/-- Why a window cannot be enabled: the reason code of the first check that fails, or none (R29, R155). -/
def State.enableRefusal (s : State) (w : Fin 16) : Option Nat :=
  let e := s.windows.get w
  match e.role with
  | none => some 1
  | some r =>
    if (s.services.get e.service).enable = false then some 2
    else if decide (r = .program) != (s.services.get e.service).program then some 3
    else if s.mapClash w e then some 5
    else none

/-- WINDOW_REFUSED (R28, R29); the enable stays 0. DESIGN CHOICE (log 42): the status block, if the event is lost, is listed
before the entry. -/
def State.refuseWindow (s : State) (w : Fin 16) (reason : Nat) : State :=
  (s.raiseEvent .windowRefused w.val 0 reason).list (.window w)

/-- The window is enabled with no horizon (R29). -/
def State.acceptWindow (s : State) (w : Fin 16) : State :=
  State.afterTiming s
    ((s.setWindow w { s.windows.get w with enable := true, horizon := none }).list (.window w))

/-- Enable 1 written to a window entry (R28, R29). -/
def State.enableWindow (s : State) (w : Fin 16) : State :=
  if (s.windows.get w).retiring then s.refuseWindow w 4
  else if (s.windows.get w).enable then s
  else match s.enableRefusal w with
    | some reason => s.refuseWindow w reason
    | none => s.acceptWindow w

/-- The window leaves classification and its translation is captured (R30 steps 1 and 2). -/
def State.beginRetiring (s : State) (w : Fin 16) : State :=
  let e := s.windows.get w
  (s.setWindow w { e with enable := false, retiring := true, captured := some (e.mapped, e.target) }).list (.window w)

/-- Retirement of windows starts for all of them at once, and ends at once where nothing is left (R30, R32, R79, R122).
DESIGN CHOICE (log 43): the slots are flushed window by window in the order of the list, R79's ascending slots within each. -/
def State.retireWindows (s : State) (ws : List (Fin 16)) : State :=
  ws.foldl State.endRetirement
    (ws.foldl State.retireSlots (State.afterTiming s (ws.foldl State.beginRetiring s)))

/-- Enable 0 written to a window entry (R28, R30). -/
def State.disableWindow (s : State) (w : Fin 16) : State := if (s.windows.get w).enable then s.retireWindows [w] else s

/-! ## Services (R178, R179) -/

/-- Enable 1 written to a service entry (R178). -/
def State.enableService (s : State) (v : Fin 8) : State :=
  if (s.services.get v).enable then s
  else State.afterTiming s (s.setService v { s.services.get v with enable := true })

/-- The enabled windows of a service (R30). -/
def State.windowsOf (s : State) (v : Fin 8) : List (Fin 16) :=
  (List.finRange 16).filter (fun w => (s.windows.get w).enable && (s.windows.get w).service == v)

/-- The enable of a window whose service is disabled is written back as 0 (R30, R159). -/
def State.listEnable (s : State) (w : Fin 16) : State := s.listBytes (.window w) [0]

/-- Enable 0 written to a service entry (R179). DESIGN CHOICE (log 42): the zones that lose their frame records join the
write-back list before the windows' part-owned fields change. -/
def State.disableService (s : State) (v : Fin 8) : State :=
  if (s.services.get v).enable then
    ((s.windowsOf v).foldl State.listEnable
      (State.afterTiming s (s.setService v { s.services.get v with enable := false }))).retireWindows (s.windowsOf v)
  else s

/-! ## Taking one record's bytes -/

/-- An enable byte, if the write carries it unmasked, sets or clears. -/
def State.actEnable (s : State) (bs : List WByte) (id : RecordId) (on off : State → State) : State :=
  match carried bs (recordOffset id) with
  | none => s
  | some b => if b = 0 then off s else on s

/-- A window entry takes its unmasked bytes, and the enable acts (R28, R156, R158). -/
def State.takeWindow (s : State) (bs : List WByte) (w : Fin 16) : State :=
  let raw := s.overlay bs (.window w)
  let s1 := s.setWindow w (decodeWindow raw (s.windows.get w))
  let s2 := s1.listDirty (.window w) (changedBytes windowSpans raw (recordByte s1.view (.window w)))
  let s3 := s2.actEnable bs (.window w) (fun s => s.enableWindow w) (fun s => s.disableWindow w)
  s3.listDirty (.window w) (s3.dirtyAction bs (.window w))

/-- A service entry takes its unmasked bytes, and the enable acts (R156, R158, R178). -/
def State.takeService (s : State) (bs : List WByte) (v : Fin 8) : State :=
  let raw := s.overlay bs (.service v)
  let s1 := s.setService v (decodeService raw (s.services.get v))
  let s2 := s1.listDirty (.service v) (changedBytes serviceSpans raw (recordByte s1.view (.service v)))
  let s3 := s2.actEnable bs (.service v) (fun s => s.enableService v) (fun s => s.disableService v)
  s3.listDirty (.service v) (s3.dirtyAction bs (.service v))

/-- A segment entry takes its unmasked bytes, and the enable acts (R95, R97, R98). -/
def State.takeSegment (s : State) (bs : List WByte) (g : Fin 12) : State :=
  let raw := s.overlay bs (.segment g)
  let s1 := s.setSegment g (decodeSegment raw (s.segments.get g))
  let s2 := s1.listDirty (.segment g) (changedBytes segmentSpans raw (recordByte s1.view (.segment g)))
  let s3 := s2.actEnable bs (.segment g) (fun s => s.enableSegment g) (fun s => s.disableSegment g)
  s3.listDirty (.segment g) (s3.dirtyAction bs (.segment g))

/-- A zone record takes its unmasked bytes; a new timing service may change its timing window (R121, R122). -/
def State.takeZone (s : State) (bs : List WByte) (z : Fin 8) : State :=
  let raw := s.overlay bs (.zone z)
  let s1 := s.setZone z (decodeZone raw (s.zones.get z))
  State.afterTiming s (s1.listDirty (.zone z) (changedBytes zoneSpans raw (recordByte s1.view (.zone z))))

/-- A cue request acts (R114): 1 START, 2 STOP, any other code nothing. -/
def State.actRequest (s : State) (b : Byte) (c : Fin 32) : State :=
  if b = 1 then s.startCue c true else if b = 2 then s.stopCue c else s

/-- A cue entry takes its unmasked bytes, and the request acts (R112, R114). -/
def State.takeCue (s : State) (bs : List WByte) (c : Fin 32) : State :=
  let raw := s.overlay bs (.cue c)
  let s1 := s.setCue c (decodeCue raw (s.cues.get c))
  let s2 := s1.listDirty (.cue c) (changedBytes cueSpans raw (recordByte s1.view (.cue c)))
  let s3 := match carried bs (recordOffset (.cue c)) with
    | none => s2
    | some b => s2.actRequest b c
  s3.listDirty (.cue c) (s3.dirtyAction bs (.cue c))

/-- One record takes the unmasked bytes of a write that fall on it; a record without host-owned fields takes none. -/
def State.takeRecord (bs : List WByte) (s : State) (id : RecordId) : State :=
  match id with
  | .status => s
  | .accessFault => s
  | .memoryFault => s
  | .window w => s.takeWindow bs w
  | .service v => s.takeService bs v
  | .segment g => s.takeSegment bs g
  | .zone z => s.takeZone bs z
  | .cue c => s.takeCue bs c
  | .slot _ => s

/-! ## The request block (R164) -/

/-- The consumer index in effect becomes `c`; a change lists the status block (R175, R163). -/
def State.setConsumer (s : State) (c : BitVec 7) : State :=
  ({ s with consumer := c } : State).listIf (c != s.consumer) .status

/-- The request block's copy with the unmasked bytes laid over it, the miss limit normalised (R164, R158). -/
def RequestBlock.take (r : RequestBlock) (bs : List WByte) : RequestBlock :=
  let mask := r.eventMask.setWidth 16
  { softReset := (carried bs 0x40).getD r.softReset
    latch := (carried bs 0x41).getD r.latch
    accessClear := (carried bs 0x42).getD r.accessClear
    memoryClear := (carried bs 0x43).getD r.memoryClear
    missLimit := match carried bs 0x45 with
      | none => r.missLimit
      | some b => min b.toNat 15
    eventMask := ((carried bs 0x47).getD (mask.extractLsb' 8 8) ++ (carried bs 0x46).getD (mask.extractLsb' 0 8)).setWidth 14 }

/-- The event consumer index of a write takes effect (R175). -/
def State.takeConsumer (s : State) (bs : List WByte) : State :=
  match carried bs 0x44 with
  | none => s
  | some b => s.setConsumer (normaliseConsumer s.producer (BitVec.ofNat 7 b.toNat))

/-- The latch request of a write acts (R141). -/
def State.takeLatch (s : State) (bs : List WByte) (m : Fin 16) : State :=
  match carried bs 0x41 with
  | none => s
  | some b => if b = 0 then s.clearLatch m else s.setLatch m

/-- A fault clear of a write acts (R170). -/
def State.takeClear (s : State) (bs : List WByte) (off : Nat) (memoryClass : Bool) : State :=
  if carries bs off (fun b => b != 0) then s.clearFault memoryClass else s

/-- The request block takes its unmasked bytes: its copy and the consumer index first, then the latch request, then the
two fault clears (R164, log 17). The soft-reset request acts after the write has been issued. -/
def State.takeRequest (s : State) (bs : List WByte) (m : Fin 16) : State :=
  (((({ s with request := s.request.take bs } : State).takeConsumer bs).takeLatch bs m).takeClear bs 0x42
    false).takeClear bs 0x43 true

/-- The write carries a soft-reset request (R167). -/
def asksSoftReset (bs : List WByte) : Bool := carries bs 0x40 (fun b => b != 0)

/-! ## The whole write -/

/-- The records that bytes fall on, each once, in ascending address. -/
def recordsOf (bs : List WByte) : List RecordId :=
  (bs.filterMap fun b => match areaOf b.off with
    | .record id _ => some id
    | .request _ => none
    | .reserved => none
    | .ring => none
    | .plain => none).dedup

/-- The host-owned fields of a record but its enable or request. -/
def hostSpans : RecordId → List (Nat × Nat)
  | .status => []
  | .accessFault => []
  | .memoryFault => []
  | .window _ => windowSpans
  | .service _ => serviceSpans
  | .segment _ => segmentSpans
  | .zone _ => zoneSpans
  | .cue _ => cueSpans
  | .slot _ => []

/-- The host-owned bytes of a record that a write, taken between the two states, made the part change (R159). -/
def dirtyOf (before after : State) (bs : List WByte) (id : RecordId) : List Nat :=
  changedBytes (hostSpans id) (before.overlay bs id) (recordByte after.view id) ++ after.dirtyAction bs id

/-- The records that a write of `m` is a write to (R158): those on which an enabled byte of it falls. A barred master's write
is one to none (R150), and no write is one to a record of which protection masks a byte, since the part does not write the
masked bytes back (R149). DEDUCED (log 37): bytes masked by ownership or locking count. -/
def State.recordsWritten (s : State) (m : Fin 16) (a : Access) : List RecordId :=
  if s.isBarred m then []
  else (recordsOf (s.writeBytes a)).filter (fun id => !(recordsOf (s.protectedBytes m a)).contains id)

/-- The records of a write, among `ids`, whose host-owned bytes this write made the part change (R160). -/
def changedRecords (before after : State) (ids : List RecordId) (bs : List WByte) : List RecordId :=
  ids.filter (fun id => dirtyOf before after bs id != [])

/-- What a write to the records `ids` does with its unmasked bytes `bs`, record by record in ascending address (R156), and
the request block. A record of which ownership or locking masks every byte takes none and is normalised (R158; log 37). -/
def State.takeBytes (s : State) (m : Fin 16) (ids : List RecordId) (bs : List WByte) : State :=
  (ids.foldl (State.takeRecord bs) s).takeRequest bs m

/-- The write goes to memory with the byte enables left by the masking (R153, R156). -/
def State.issueMasked (s : State) (m : Fin 16) (a : Access) (be : List Enables) (changed : List RecordId) : State :=
  s.issue m
    { hit := none, port := { number := m.val, dir := .write, addr := a.addr, be := be, data := a.data }, treat := .plain,
      answer := none, clip := .absent, changed := changed }

/-! ## Reads (R162) -/

/-- The write-backs that a read of region offset `off` waits for: one for the record in flight, one for the record on the
list. -/
def State.awaitedOf (s : State) (id : RecordId) : List RecordId :=
  (match s.writeBack with
    | some b => if b.id = id then [id] else []
    | none => []) ++ (if s.listed id then [id] else [])

/-- The records that a read of `n` words covers, each once (R162). -/
def State.recordsRead (s : State) (a : Access) : List RecordId :=
  ((List.range (4 * a.len)).filterMap fun j => match areaOf (s.regionOffset a.addr + j) with
    | .record id _ => some id
    | .request _ => none
    | .reserved => none
    | .ring => none
    | .plain => none).dedup

/-- Control-region read, as it is handed on (R162): held while a record that it covers waits for its write-back, else sent
to memory at its own address. -/
def State.treatControlRead (s : State) (m : Fin 16) (a : Access) : State :=
  match (s.recordsRead a).flatMap s.awaitedOf with
  | [] => s.passUnchanged m a
  | ids => s.setStage m (.heldRecords ids)

end Sys2Proof.Machine
end

