-- ==== Sys2Proof/Machine/WriteBack.lean ====
section
/-! DEFINITION. The write-back operation (R160 to R162) and the answers to the image write-out (R166). -/

namespace Sys2Proof.Machine

/-! ## The start of a write-back (R160) -/

/-- A write-back follows the changes that a host write made, and that write has not been answered (R160, log 18). -/
def Stage.changes (id : RecordId) : Stage → Bool
  | .issued i => i.changed.contains id
  | .waiting => false
  | .taken _ => false
  | .heldWriteOut => false
  | .heldWriteBack => false
  | .heldRecords _ => false
  | .heldSlot _ _ => false
  | .heldPending _ => false
  | .translating _ _ _ => false

/-- The record waits for the answer of a host write that changed it (R160). -/
def State.awaitsWrite (s : State) (id : RecordId) : Bool :=
  (List.finRange 16).any (fun m => (s.stage m).changes id)

/-- The bytes to be written of a record (R159): its part-owned bytes and the host-owned bytes in its set. -/
def ListedRecord.writes (r : ListedRecord) (o : Nat) : Bool := !hostOwned r.id o || r.hostBytes.contains o

/-- The offsets of the bytes to be written, in ascending order. -/
def ListedRecord.offsets (r : ListedRecord) : List Nat := (List.range (recordSize r.id)).filter r.writes

/-- The word at word offset `k` of a record, as the part holds it. -/
def recordWord (v : RegionView) (id : RecordId) (k : Nat) : Word :=
  recordByte v id (4 * k + 3) ++ recordByte v id (4 * k + 2) ++ recordByte v id (4 * k + 1) ++ recordByte v id (4 * k)

/-- The byte enables of the word at word offset `k` of a record: the bytes to be written (R160). -/
def ListedRecord.enables (r : ListedRecord) (k : Nat) : Enables :=
  BitVec.ofNat 4 (maskOf (List.finRange 4) (fun j => r.writes (4 * k + j.val)))

/-- The burst of a write-back over words `k` to `k + n − 1` of a record (R160). -/
def State.backBurst (s : State) (r : ListedRecord) (k n : Nat) : MemAccess :=
  { number := Config.ownNumber
    dir := .write
    addr := s.regionBase + BitVec.ofNat 32 (recordOffset r.id + 4 * k)
    be := (List.range' k n).map r.enables
    data := (List.range' k n).map (recordWord s.view r.id) }

/-- The bursts of a write-back (R160): from the first to the last word that holds a byte to be written, up to 16 words
each. -/
def State.backBursts (s : State) (r : ListedRecord) : List MemAccess :=
  match r.offsets with
  | [] => []
  | o :: os =>
    let first := o / 4
    let count := (o :: os).getLast?.getD o / 4 + 1 - first
    if count ≤ 16 then [s.backBurst r first count]
    else [s.backBurst r first 16, s.backBurst r (first + 16) (count - 16)]

/-- WRITE_BACK_START (R160): with the list not empty, no write-back in flight and no image write-out running, the oldest
record leaves the list and its bytes go out. DEDUCED (log 41): while the host write that changed it has not been answered,
it stays on the list as the oldest, and no younger record goes before it. -/
def State.startWriteBack (s : State) : State :=
  match s.writeOut, s.writeBack, s.writeBackList with
  | none, none, r :: rest =>
    if s.awaitsWrite r.id then s
    else
      let s' : State := { s with writeBackList := rest }
      let bursts := s'.backBursts r
      let b : WriteBack :=
        { id := r.id, hostBytes := r.hostBytes, bursts := bursts, left := List.range bursts.length, failed := false,
          dropped := false }
      { s' with writeBack := some b }
  | _, _, _ => s

/-! ## Its end (R161, R162) -/

/-- A read held on records goes on when the last of the write-backs that it waits for has completed (R162). -/
def State.releaseRecord (id : RecordId) (s : State) (m : Fin 16) : State :=
  match s.front m, s.stage m with
  | some a, .heldRecords ids =>
    if ids.contains id then
      if (ids.erase id).isEmpty then s.passUnchanged m a else s.setStage m (.heldRecords (ids.erase id))
    else s
  | _, _ => s

/-- A control-region access whose hold has ended is to be taken by the Monitor as usual, at this moment (R26, R160; log
23). -/
def State.goOn (s : State) (m : Fin 16) : State := (s.setStage m (.taken .control)).owe [.hand m]

/-- A write held by the write-back in flight goes on (R160). -/
def State.releaseWrite (s : State) (m : Fin 16) : State :=
  match s.stage m with
  | .heldWriteBack => s.goOn m
  | _ => s

/-- The write-back completes (R160): the reads and writes held on it are released. One that a soft reset has made void
completes too, and the accesses taken since that wait for it go on (R26, R167; log 26). -/
def State.endWriteBack (s : State) (b : WriteBack) : State :=
  (List.finRange 16).foldl State.releaseWrite
    ((List.finRange 16).foldl (State.releaseRecord b.id) { s with writeBack := none })

/-- The address of burst `k` of a write-back. -/
def WriteBack.burstAddr (b : WriteBack) (k : Nat) : Addr :=
  match b.bursts[k]? with
  | some p => p.addr
  | none => 0

/-- The memory answers burst `k` of the write-back in flight (R161); the answers of one that a soft reset has made void
raise nothing (R167). -/
def State.answerWriteBack (s : State) (b : WriteBack) (k : Nat) (ok : Bool) : State :=
  let fails := !ok && !b.failed && !b.dropped
  let s1 := if fails then s.raiseFault .writebackError Config.ownNumber (b.burstAddr k) none else s
  let b1 := { b with left := b.left.erase k, failed := b.failed || !ok }
  if b1.left.isEmpty then s1.endWriteBack b1 else { s1 with writeBack := some b1 }

/-! ## The image write-out (R166) -/

/-- A control-region access held by the write-out goes on (R166). -/
def State.releaseWriteOut (s : State) (m : Fin 16) : State :=
  match s.stage m with
  | .heldWriteOut => s.goOn m
  | _ => s

/-- The write-out is complete (R166): READY, the status block listed, INIT_DONE raised, the held accesses released. -/
def State.endWriteOut (s : State) (soft : Bool) : State :=
  (List.finRange 16).foldl State.releaseWriteOut
    ((({ s with ready := true, writeOut := none } : State).list .status).raiseEvent .initDone (if soft then 1 else 0) 0 0)

/-- The address of burst `k` of the write-out (R166). -/
def State.imageAddr (s : State) (k : Nat) : Addr := s.regionBase + BitVec.ofNat 32 (64 * k)

/-- The memory answers burst `k` of the write-out (R166). -/
def State.answerWriteOut (s : State) (o : WriteOut) (k : Nat) (ok : Bool) : State :=
  let s1 := if !ok && !o.failed then s.raiseFault .writebackError Config.ownNumber (s.imageAddr k) none else s
  let o1 := { o with left := o.left.erase k, failed := o.failed || !ok }
  if o1.left.isEmpty then s1.endWriteOut o.soft else { s1 with writeOut := some o1 }

/-! ## Event writes (R174) -/

/-- EVENT_WRITE_ISSUE (R174, R166): with events pending, none being written and no image write-out running, the oldest is
written. -/
def State.issueEvent (s : State) : State :=
  match s.writeOut, s.eventInFlight, s.events with
  | none, false, _ :: _ => { s with eventInFlight := true }
  | _, _, _ => s

/-- EVENT_WRITE_ANSWER (R174). -/
def State.answerEvent (s : State) (ok : Bool) : State :=
  if s.eventInFlight then
    if ok then
      ({ s with events := s.events.tail, eventInFlight := false, producer := s.producer + 1 } : State).list .status
    else ({ s with events := s.events.tail, eventInFlight := false } : State).loseEvent
  else s

end Sys2Proof.Machine
end

