-- ==== Sys2Proof/Machine/Reset.lean ====
section
/-! DEFINITION. The two resets (R27, R47, R48, R80, R81, R93, R94, R110, R111, R138, R139, R151, R152, R165, R167, R177)
and the start of the image write-out (R166). -/

namespace Sys2Proof.Machine

/-- The image write-out starts with the values that the part now holds (R166). -/
def State.startWriteOut (s : State) (soft : Bool) : State :=
  { s with writeOut := some { soft := soft, left := List.range Config.imageBursts, failed := false,
                              image := imageBytes s.view } }

/-- HARD_RESET (R27, R165): every access ends without a response and all state takes its hard-reset value while the pin is
low. The raw level of the line is the board's, not the part's. -/
def State.hardReset (s : State) : State := { State.cold with pending := s.pending, line := s.line }

/-- RESET_RELEASE (R165): the straps are sampled, the timebase restarts from 0, the qualification timer watches the raw
level (R140) and the image write-out starts. -/
def State.release (s : State) (base : BitVec 8) (master : BitVec 4) (divider : BitVec 6) : State :=
  if s.resetLow then
    let s' : State :=
      { s with resetLow := false, baseStraps := base, masterStraps := master, dividerStraps := divider, timebase := 0 }
    ({ s' with qualTimer := s'.qualTimerFor s'.line } : State).startWriteOut false
  else s

/-! ## Soft reset -/

/-- The burst of slot `n`'s flush of frame `acc` at `phys`, number `k`: 16 words, all byte enables on (R71). -/
def flushBurst (acc : List Lanes) (phys : Addr) (k : Fin 16) : MemAccess :=
  { number := Config.ownNumber
    dir := .write
    addr := burstAddr phys k
    be := allOn 16
    data := ((acc.drop (16 * k.val)).take 16).map flushedWord }

/-- The flush bursts of slot `n` that the memory has not answered (R81). -/
def State.unansweredBursts (s : State) (n : Fin 16) : List StaleBurst :=
  match (s.slots.get n).flush with
  | none => []
  | some f => f.left.map fun k => { slot := n, burst := k, port := flushBurst (s.slots.get n).acc f.phys k }

/-- What a soft reset makes of an access that stands at the memory port: it goes on (R27); no write-back waits for it. -/
def Stage.afterSoft : Stage → Stage
  | .issued i => .issued { i with changed := [] }
  | .waiting => .waiting
  | .taken c => .taken c
  | .heldWriteOut => .heldWriteOut
  | .heldWriteBack => .heldWriteBack
  | .heldRecords r => .heldRecords r
  | .heldSlot n h => .heldSlot n h
  | .heldPending h => .heldPending h
  | .translating h t o => .translating h t o

/-- The request block after a soft reset (R167): the two clears and the soft-reset request 0, the latch request as the
latch, the miss limit and the mask as held. -/
def State.softRequest (s : State) : RequestBlock :=
  { s.request with softReset := 0, latch := flagByte s.latch, accessClear := 0, memoryClear := 0 }

/-- The due item is the taking of an access. A soft reset leaves it: an access that has not been taken keeps its place and
is classified when taken (R27). -/
def Due.isTaking : Due → Bool
  | .take _ => true
  | .hand _ => false

/-- The records and the part's own state take their soft-reset values (R167). An access that was to be handed on is
classified anew with the held ones (R27), so its handing on is no longer due. -/
def State.softValues (s : State) : State :=
  { s with
    ports := s.ports.map (fun p => { p with stage := p.stage.afterSoft })
    windows := Vector.replicate 16 windowReset
    cache := []
    translations := []
    translationWaits := []
    fetch := s.fetch.map (fun f => { f with discard := true })
    hazards := []
    services := Vector.replicate 8 serviceReset
    segments := Vector.replicate 12 segmentReset
    zones := Vector.replicate 8 zoneReset
    cues := Vector.replicate 32 cueReset
    slots := Vector.replicate 16 slotReset
    allocs := []
    staleBursts := s.staleBursts ++ (List.finRange 16).flatMap s.unansweredBursts
    handovers := []
    departures := []
    due := s.due.filter Due.isTaking
    request := s.softRequest
    writeBackList := []
    writeBack := s.writeBack.map (fun b => { b with dropped := true })
    ready := false }

/-- The access in service has been taken and has not been issued to memory (R27). -/
def Stage.isHeld : Stage → Bool
  | .waiting => false
  | .issued _ => false
  | .taken _ => true
  | .heldWriteOut => true
  | .heldWriteBack => true
  | .heldRecords _ => true
  | .heldSlot _ _ => true
  | .heldPending _ => true
  | .translating _ _ _ => true

/-- A held access is classified anew (R27): a control-region access is held by the write-out, any other goes to memory at
its original address. -/
def State.reclassify (s : State) (m : Fin 16) : State :=
  match s.front m with
  | none => s
  | some a =>
    if (s.stage m).isHeld then
      match boundaryFault (s.classify a.addr) (s.classify (lastAddr a)) with
      | some w => (s.raiseFault .boundary m.val a.addr w).respondDropped m a
      | none => if s.inRegion a.addr then s.setStage m .heldWriteOut else s.passUnchanged m a
    else s

/-- A soft reset (R167): the values, the image write-out, and the held accesses classified anew in ascending master order
(log 24). -/
def State.softReset (s : State) : State :=
  (List.finRange 16).foldl State.reclassify (s.softValues.startWriteOut true)

end Sys2Proof.Machine
end

