-- ==== Sys2Proof/Machine/HandOver.lean ====
section
/-! DEFINITION. Handing a taken access on to its block (R24, R25), and what the part does of itself before a command acts:
departure notices, then the accesses that are due to be taken or handed on (logs 5, 6, 44). -/

namespace Sys2Proof.Machine

/-- The protected write is counted, if protection masks a byte (R149). -/
def State.chargeProtected (s : State) (m : Fin 16) (a : Access) : State :=
  if (s.protectedBytes m a).isEmpty then s else s.countProtected m (s.firstProtected m a)

/-- The unmasked bytes `bs` of a write to the records `ids` act, and the write goes to memory with the byte enables `be`
(R156, R158, R160). -/
def State.performWrite (s : State) (m : Fin 16) (a : Access) (be : List Enables) (ids : List RecordId)
    (bs : List WByte) : State :=
  (s.takeBytes m ids bs).issueMasked m a be (changedRecords s (s.takeBytes m ids bs) ids bs)

/-- Control-region write, as it is handed on (R156): held by a write-back in flight on its bytes (R160); else masked,
counted if protected, taken by the copies and issued; and a soft reset follows if it asks for one (R167). -/
def State.treatControlWrite (s : State) (m : Fin 16) (a : Access) : State :=
  if s.writeHeld m a then s.setStage m .heldWriteBack
  else
    let bs := s.keptBytes m a
    let s' := (s.chargeProtected m a).performWrite m a (s.keptEnables m a) (s.recordsWritten m a) bs
    if asksSoftReset bs then s'.softReset else s'

/-- Unwindowed access, as it is handed on (R18): passed to memory unchanged. -/
def State.treatUnwindowed (s : State) (m : Fin 16) (a : Access) : State := s.passUnchanged m a

/-- A sample-window access is handed on by its role and direction (R24). -/
def State.treatWindow (s : State) (m : Fin 16) (a : Access) (hit : WinHit) : State :=
  match hit.role, a.dir with
  | .uplink, .write => s.treatUplinkWrite m a hit
  | .uplink, .read => s.treatUplinkRead m a hit
  | .downlink, .write => s.treatDownlinkWrite m a hit
  | .downlink, .read => s.treatDownlinkRead m a hit
  | .program, .write => s.treatProgramWrite m a hit
  | .program, .read => s.treatProgramRead m a hit

/-- A taken access is handed on by its class (R18, R24). -/
def State.treat (s : State) (m : Fin 16) : State :=
  match s.front m, s.stage m with
  | some a, .taken (.window hit) => s.treatWindow m a hit
  | some a, .taken .unwindowed => s.treatUnwindowed m a
  | some a, .taken .control =>
    match a.dir with
    | .read => s.treatControlRead m a
    | .write => s.treatControlWrite m a
  | _, _ => s

/-! ## What the part does of itself -/

/-- The part takes an access for service, or hands the taken one on to its block (R25). -/
def State.actDue (s : State) : Due → State
  | .take m => s.takeAccess m
  | .hand m => s.treat m

/-- The oldest due item is off the list. -/
def State.popDue (s : State) : State := { s with due := s.due.tail }

/-- The oldest due item is done: it acts, and what follows from it, departure notices among it, is settled (log 6). -/
def State.doDue (s : State) (d : Due) : State := ((s.popDue.actDue d).settle).giveNotices

/-- How much work an item brings at most: a taking may make a handing-on due. -/
def Due.weight : Due → Nat
  | .take _ => 2
  | .hand _ => 1

/-- A bound on the items that the part can come to do of itself before the next command: it falls with each of them, since
each answers an access, moves one nearer to its answer, or leaves it held. -/
def State.load (s : State) : Nat :=
  (s.due.map Due.weight).sum + 2 * ((List.finRange 16).map fun m => (s.ports.get m).queue.length).sum +
    4 * s.portWaiting.length

/-- What is due is done, oldest first, until nothing is due or `own` says what the command that has come does with the
oldest item. `fuel` bounds the items. -/
def State.workOff (own : State → Due → Option State) : Nat → State → State
  | 0, s => s
  | fuel + 1, s =>
    match s.due with
    | [] => s
    | d :: _ =>
      match own s d with
      | some t => t
      | none => State.workOff own fuel (s.doDue d)

/-- The part has done what it does of itself before a command acts: departure notices are taken (R65, R104; log 44), then
the accesses that are due are taken and handed on, oldest first (R25, R26; log 6), up to the one that the command itself
is about. -/
def State.catchUpTo (own : State → Due → Option State) (s : State) : State :=
  State.workOff own s.giveNotices.load s.giveNotices

/-- The part has done everything that it does of itself before a command acts. -/
def State.catchUp (s : State) : State := s.catchUpTo (fun _ _ => none)

/-! ## The commands that name a due item -/

/-- The item is the taking of an access of `m`. -/
def State.ownTaking (m : Fin 16) (s : State) (d : Due) : Option State :=
  if d = .take m then some (s.popDue.takeAccess m) else none

/-- The item hands on an access of `m` on which `f` acts. -/
def State.ownHanding (m : Fin 16) (f : State → Access → Cls → Option State) (s : State) (d : Due) : Option State :=
  match s.front m, s.stage m with
  | some a, .taken c => if d = .hand m then f s.popDue a c else none
  | _, _ => none

/-- A sample-window access of `m` with the role and direction of the command is treated by `f` when its turn comes; without
one the command does nothing of its own (log 1). -/
def State.asWindow (s : State) (m : Fin 16) (r : Role) (d : Dir) (f : State → Access → WinHit → State) : State :=
  s.catchUpTo (State.ownHanding m fun s a c =>
    match c with
    | .window hit => if hit.role = r ∧ a.dir = d then some (f s a hit) else none
    | .control => none
    | .unwindowed => none)

/-- A control-region access of `m` with the direction of the command, for which `p` holds, is treated by `f` when its turn
comes; without one the command does nothing of its own (log 1). -/
def State.asControl (s : State) (m : Fin 16) (d : Dir) (p : State → Access → Bool) (f : State → Access → State) : State :=
  s.catchUpTo (State.ownHanding m fun s a c =>
    match c with
    | .control => if a.dir = d ∧ p s a = true then some (f s a) else none
    | .window _ => none
    | .unwindowed => none)

/-- An unwindowed access of `m` is treated by `f` when its turn comes; without one the command does nothing of its own
(log 1). -/
def State.asUnwindowed (s : State) (m : Fin 16) (f : State → Access → State) : State :=
  s.catchUpTo (State.ownHanding m fun s a c =>
    match c with
    | .unwindowed => some (f s a)
    | .window _ => none
    | .control => none)

/-- The outcome of a command: the next state, once what follows from it has been settled. -/
def done (s : State) : Host.Outcome State Fault Refusal := .next s.settle

end Sys2Proof.Machine
end

