-- ==== Sys2Proof/Machine/PortCommands.lean ====
section
/-! DEFINITION. The commands of the system port and of the memory's answers to accesses made on a master's behalf. -/

namespace Sys2Proof.Machine

/-- The access is presented at the system port (R25). -/
def State.present (s : State) (a : Access) : State := { s with portWaiting := s.portWaiting ++ [a] }

/-- ACCESS_REQUEST (R25, R16): the access joins its master's queue, or waits at the port while ready is withheld. -/
def execAccessRequest (a : Access) (s : State) : Host.Outcome State Fault Refusal :=
  if a.wellFormed then done (s.catchUp.present a) else .refused .malformedAccess

/-- ACCESS_TAKEN_FOR_SERVICE (R18, R25): the oldest access of `m`, when its taking is due, is classified and checked, and the
notices are given. -/
def execAccessTakenForService (m : Fin 16) (s : State) : Host.Outcome State Fault Refusal :=
  done (s.catchUpTo (State.ownTaking m))

/-- UNWINDOWED_ACCESS (R18): it passes to the memory port unchanged. -/
def execUnwindowedAccess (m : Fin 16) (s : State) : Host.Outcome State Fault Refusal :=
  done (s.asUnwindowed m fun s a => s.treatUnwindowed m a)

/-- MEMORY_ACCESS_ANSWER (R17, R84, R135): the response is given, with the data equalised or mixed where the role calls for
it. -/
def execMemoryAccessAnswer (m : Fin 16) (r : Answer) (s : State) : Host.Outcome State Fault Refusal :=
  done (s.catchUp.withIssued m r fun a i => s.catchUp.answerAccess m a i r)

end Sys2Proof.Machine
end

