-- ==== Sys2Proof/Machine/TranslationCommands.lean ====
section
/-! DEFINITION. The commands of the Frame Translator (R40 to R42, R45). -/

namespace Sys2Proof.Machine

/-- A request of a group is answered with the physical frame address (R42): an access goes on, a flush begins its bursts. -/
def State.giveRequest (phys : Addr) (s : State) (r : TransReq) : State :=
  match r.owner with
  | .master m => s.giveMaster m phys
  | .flush n => s.issueBursts n phys

/-- A request of a group is refused (R42, R45). -/
def State.refuseRequest (s : State) (r : TransReq) : State :=
  match r.owner with
  | .master m => s.refuseMaster m
  | .flush n => s.flushRefused n

/-- The fetch for `r` has failed with fault `k` (R42, R45): one fault, and the group is refused. DESIGN CHOICE (log 45): the
fault, with its record, its listing and its event, comes before what the refusals do. -/
def State.failFetch (s : State) (r : TransReq) (k : FaultKind) : State :=
  (s.fetchGroup r).foldl State.refuseRequest ((s.endFetch r).raiseFault k r.owner.number r.mapAddr (some r.window))

/-- The fetch for `r` has read a valid map entry (R42, R38): the cache entry is created and the group answered. -/
def State.fillFetch (s : State) (r : TransReq) (entry : Word) : State :=
  (s.fetchGroup r).foldl (State.giveRequest (frameBase entry)) ((s.endFetch r).createCacheEntry r (frameBase entry))

/-- The memory answers the map fetch in flight (R42): a fetch marked for discard is dropped and its group waits on. -/
def State.completeFetch (s : State) (f : MapFetch) (ok : Bool) (entry : Word) : State :=
  if f.discard then { s with fetch := none }
  else if !ok then s.failFetch f.request .mapError
  else if s.mapEntryValid entry then s.fillFetch f.request entry
  else s.failFetch f.request .unmapped

/-- TRANSLATION_QUEUE_JOIN (R40). -/
def execTranslationQueueJoin (s : State) : Host.Outcome State Fault Refusal := done s.catchUp.joinFromWait

/-- MAP_FETCH_ISSUE (R41). -/
def execMapFetchIssue (s : State) : Host.Outcome State Fault Refusal := done s.catchUp.issueFetch

/-- MAP_FETCH_COMPLETE (R42). -/
def execMapFetchComplete (ok : Bool) (entry : Word) (s : State) : Host.Outcome State Fault Refusal :=
  done (match s.catchUp.fetch with
    | none => s.catchUp
    | some f => s.catchUp.completeFetch f ok entry)

end Sys2Proof.Machine
end

