-- ==== Sys2Proof/Machine/UplinkCommands.lean ====
section
/-! DEFINITION. The commands of the Uplink Combiner (chapter 4). -/

namespace Sys2Proof.Machine

/-- UPLINK_WRITE (R22, R23, R58). -/
def execUplinkWrite (m : Fin 16) (s : State) : Host.Outcome State Fault Refusal :=
  done (s.asWindow m .uplink .write fun s a hit => s.treatUplinkWrite m a hit)

/-- UPLINK_READ (R74). -/
def execUplinkRead (m : Fin 16) (s : State) : Host.Outcome State Fault Refusal :=
  done (s.asWindow m .uplink .read fun s a hit => s.treatUplinkRead m a hit)

/-- DEADLINE_EXPIRY (R67): a FILLING slot whose deadline has come flushes SHORT, cause DEADLINE. -/
def execDeadlineExpiry (n : Fin 16) (s : State) : Host.Outcome State Fault Refusal :=
  done (if s.catchUp.deadlineDue n then s.catchUp.startFlush n .deadline else s.catchUp)

/-- The burst was issued before a soft reset and has not been answered (R81). -/
def State.staleBurst (s : State) (n k : Fin 16) : Option StaleBurst :=
  s.staleBursts.find? (fun b => b.slot == n && b.burst == k)

/-- The memory answers a flush burst: one from before a soft reset first (log 25), whose answer is dropped (R81), else one
of the slot's flush (R72). -/
def State.answerBurst (s : State) (n k : Fin 16) (ok : Bool) : State :=
  match s.staleBurst n k with
  | some b => { s with staleBursts := s.staleBursts.erase b }
  | none =>
    match (s.slots.get n).flush with
    | none => s
    | some f => if f.left.contains k then s.answerFlush n k f ok else s

/-- FLUSH_BURST_ANSWER (R72, R73). -/
def execFlushBurstAnswer (n k : Fin 16) (ok : Bool) (s : State) : Host.Outcome State Fault Refusal :=
  done (s.catchUp.answerBurst n k ok)

end Sys2Proof.Machine
end

