-- ==== Sys2Proof/Machine/DownlinkCommands.lean ====
section
/-! DEFINITION. The commands of the Downlink Equalizer (chapter 5). -/

namespace Sys2Proof.Machine

/-- DOWNLINK_WRITE (R82). -/
def execDownlinkWrite (m : Fin 16) (s : State) : Host.Outcome State Fault Refusal :=
  done (s.asWindow m .downlink .write fun s a hit => s.treatDownlinkWrite m a hit)

/-- DOWNLINK_READ (R83, R85, R87). -/
def execDownlinkRead (m : Fin 16) (s : State) : Host.Outcome State Fault Refusal :=
  done (s.asWindow m .downlink .read fun s a hit => s.treatDownlinkRead m a hit)

/-- TALKTHROUGH_SOURCE_ANSWER (R88). -/
def execTalkthroughSourceAnswer (m : Fin 16) (r : Answer) (s : State) : Host.Outcome State Fault Refusal :=
  done (s.catchUp.withIssued m r fun a i => s.catchUp.answerSource m a i r)

end Sys2Proof.Machine
end

