-- ==== Sys2Proof/Machine/ProgramCommands.lean ====
section
/-! DEFINITION. The commands of programme traffic (chapter 7). -/

namespace Sys2Proof.Machine

/-- PROGRAM_WRITE (R136). -/
def execProgramWrite (m : Fin 16) (s : State) : Host.Outcome State Fault Refusal :=
  done (s.asWindow m .program .write fun s a hit => s.treatProgramWrite m a hit)

/-- PROGRAM_READ (R124, R133, R136). -/
def execProgramRead (m : Fin 16) (s : State) : Host.Outcome State Fault Refusal :=
  done (s.asWindow m .program .read fun s a hit => s.treatProgramRead m a hit)

/-- CLIP_READ_ANSWER (R135). -/
def execClipReadAnswer (m : Fin 16) (r : Answer) (s : State) : Host.Outcome State Fault Refusal :=
  done (s.catchUp.withIssued m r fun a i => s.catchUp.answerClip m a i r)

end Sys2Proof.Machine
end

