-- ==== Sys2Proof/Machine/SegmentCommands.lean ====
section
/-! DEFINITION. The commands of the Segment Supervisor that are not host writes (chapter 6). -/

namespace Sys2Proof.Machine

/-- ACTIVITY_TIMER_EXPIRY (R100). -/
def execActivityTimerExpiry (g : Fin 12) (s : State) : Host.Outcome State Fault Refusal :=
  done (if s.catchUp.stallDue g then s.catchUp.stall g else s.catchUp)

/-- SEGMENT_EXCLUSION_HANDOVER (R102). -/
def execSegmentExclusionHandover (g : Fin 12) (s : State) : Host.Outcome State Fault Refusal :=
  done (s.catchUp.takeHandover g)

/-- DEPARTURE_NOTICE (R104, R64): the notices given before the segment's are taken before it (log 44). -/
def execDepartureNotice (g : Fin 12) (s : State) : Host.Outcome State Fault Refusal :=
  done (if s.departures.contains g then
      ((s.takeDepartures (s.departures.takeWhile (fun x => x != g))).takeDeparture g)
    else s.catchUp)

end Sys2Proof.Machine
end

