-- ==== Sys2Proof/Machine/IncidentCommands.lean ====
section
/-! DEFINITION. The commands of the incident line (R140). -/

namespace Sys2Proof.Machine

/-- INCIDENT_LINE_CHANGE (R140). -/
def execIncidentLineChange (high : Bool) (s : State) : Host.Outcome State Fault Refusal :=
  done (s.catchUp.changeLine high)

/-- QUALIFICATION_TIMER_EXPIRY (R140, R142). -/
def execQualificationTimerExpiry (s : State) : Host.Outcome State Fault Refusal :=
  done (if s.catchUp.qualDue then s.catchUp.qualify else s.catchUp)

end Sys2Proof.Machine
end

