-- ==== Sys2Proof/Machine/ControlCommands.lean ====
section
/-! DEFINITION. The commands that are control-region accesses (chapter 9). A write is taken whole whatever it carries; the
command names what the unmasked bytes carry. -/

namespace Sys2Proof.Machine

/-! ## What a write carries -/

/-- The unmasked bytes write an enable other than 0 to an entry `id i` for which `p` holds. -/
def writesOn {n : Nat} (bs : List WByte) (id : Fin n → RecordId) (p : Fin n → Bool) : Bool :=
  (List.finRange n).any (fun i => carries bs (recordOffset (id i)) (fun b => b != 0) && p i)

/-- The unmasked bytes write an enable of 0 to an entry `id i` for which `p` holds. -/
def writesOff {n : Nat} (bs : List WByte) (id : Fin n → RecordId) (p : Fin n → Bool) : Bool :=
  (List.finRange n).any (fun i => carries bs (recordOffset (id i)) (fun b => b == 0) && p i)

/-- The unmasked bytes write request code `code` to a cue (R114). -/
def writesRequest (bs : List WByte) (code : Byte) : Bool :=
  (List.finRange 32).any (fun c => carries bs (recordOffset (.cue c)) (fun b => b == code))

/-- The window is disabled and not retiring (R28). -/
def State.windowIdle (s : State) (w : Fin 16) : Bool := !(s.windows.get w).enable && !(s.windows.get w).retiring

/-- The unmasked bytes give a zone another timing service (R121). -/
def State.movesTiming (s : State) (bs : List WByte) : Bool :=
  (List.finRange 8).any fun z =>
    carries bs (recordOffset (.zone z)) (fun b => Fin.ofNat 8 b.toNat != (s.zones.get z).timing)

/-- The write carries this byte of the request block unmasked, with a value for which `p` holds (R164). -/
def State.requests (off : Nat) (p : Byte → Bool) (m : Fin 16) (s : State) (a : Access) : Bool :=
  carries (s.keptBytes m a) off p

/-! ## What each command is about -/

/-- Enable 1 for a disabled, non-retiring window (R28, R29). -/
def enablesWindow (m : Fin 16) (s : State) (a : Access) : Bool := writesOn (s.keptBytes m a) .window s.windowIdle

/-- Enable 0 for an enabled window (R28, R30). -/
def disablesWindow (m : Fin 16) (s : State) (a : Access) : Bool :=
  writesOff (s.keptBytes m a) .window (fun w => (s.windows.get w).enable)

/-- Enable 1 for a disabled service (R178). -/
def enablesService (m : Fin 16) (s : State) (a : Access) : Bool :=
  writesOn (s.keptBytes m a) .service (fun v => !(s.services.get v).enable)

/-- Enable 0 for an enabled service (R179). -/
def disablesService (m : Fin 16) (s : State) (a : Access) : Bool :=
  writesOff (s.keptBytes m a) .service (fun v => (s.services.get v).enable)

/-- Enable 1 for an OFFLINE segment (R97). -/
def enablesSegment (m : Fin 16) (s : State) (a : Access) : Bool :=
  writesOn (s.keptBytes m a) .segment (fun g => (s.segments.get g).state == .offline)

/-- Enable 0 for a segment that is not OFFLINE (R98). -/
def disablesSegment (m : Fin 16) (s : State) (a : Access) : Bool :=
  writesOff (s.keptBytes m a) .segment (fun g => (s.segments.get g).state != .offline)

/-- A timing service other than the one held (R121). -/
def movesTimingService (m : Fin 16) (s : State) (a : Access) : Bool := s.movesTiming (s.keptBytes m a)

/-- Request `code` for a cue (R114). -/
def requestsCue (code : Byte) (m : Fin 16) (s : State) (a : Access) : Bool := writesRequest (s.keptBytes m a) code

/-- A latch request of 0 from the incident master (R141). -/
def clearsLatch (m : Fin 16) (s : State) (a : Access) : Bool :=
  m == s.incidentMaster && State.requests 0x41 (fun b => b == 0) m s a

/-- A byte of the event enable mask (R172). -/
def writesMask (m : Fin 16) (s : State) (a : Access) : Bool :=
  State.requests 0x46 (fun _ => true) m s a || State.requests 0x47 (fun _ => true) m s a

/-- A soft-reset request other than 0 (R167). -/
def requestsSoftReset (m : Fin 16) (s : State) (a : Access) : Bool := asksSoftReset (s.keptBytes m a)

/-! ## The commands -/

/-- CONTROL_REGION_READ (R162). -/
def execControlRegionRead (m : Fin 16) (s : State) : Host.Outcome State Fault Refusal :=
  done (s.asControl m .read (fun _ _ => true) fun s a => s.treatControlRead m a)

/-- CONTROL_REGION_WRITE (R156): any control-region write of `m` (log 29). -/
def execControlRegionWrite (m : Fin 16) (s : State) : Host.Outcome State Fault Refusal :=
  done (s.asControl m .write (fun _ _ => true) fun s a => s.treatControlWrite m a)

/-- WINDOW_ENABLE (R28, R29): enable 1 for a disabled, non-retiring window. -/
def execWindowEnable (m : Fin 16) (s : State) : Host.Outcome State Fault Refusal :=
  done (s.asControl m .write (enablesWindow m) fun s a => s.treatControlWrite m a)

/-- WINDOW_DISABLE (R28, R30): enable 0 for an enabled window. -/
def execWindowDisable (m : Fin 16) (s : State) : Host.Outcome State Fault Refusal :=
  done (s.asControl m .write (disablesWindow m) fun s a => s.treatControlWrite m a)

/-- SERVICE_ENABLE (R178): enable 1 for a disabled service. -/
def execServiceEnable (m : Fin 16) (s : State) : Host.Outcome State Fault Refusal :=
  done (s.asControl m .write (enablesService m) fun s a => s.treatControlWrite m a)

/-- SERVICE_DISABLE (R179): enable 0 for an enabled service. -/
def execServiceDisable (m : Fin 16) (s : State) : Host.Outcome State Fault Refusal :=
  done (s.asControl m .write (disablesService m) fun s a => s.treatControlWrite m a)

/-- SEGMENT_ENABLE (R97): enable 1 for an OFFLINE segment. -/
def execSegmentEnable (m : Fin 16) (s : State) : Host.Outcome State Fault Refusal :=
  done (s.asControl m .write (enablesSegment m) fun s a => s.treatControlWrite m a)

/-- SEGMENT_DISABLE (R98): enable 0 for a segment that is not OFFLINE. -/
def execSegmentDisable (m : Fin 16) (s : State) : Host.Outcome State Fault Refusal :=
  done (s.asControl m .write (disablesSegment m) fun s a => s.treatControlWrite m a)

/-- ZONE_TIMING_SERVICE_WRITE (R121): a timing service other than the one held. -/
def execZoneTimingServiceWrite (m : Fin 16) (s : State) : Host.Outcome State Fault Refusal :=
  done (s.asControl m .write (movesTimingService m) fun s a => s.treatControlWrite m a)

/-- CUE_START (R114, R115): request START for a cue. -/
def execCueStart (m : Fin 16) (s : State) : Host.Outcome State Fault Refusal :=
  done (s.asControl m .write (requestsCue 1 m) fun s a => s.treatControlWrite m a)

/-- CUE_STOP (R114, R118): request STOP for a cue. -/
def execCueStop (m : Fin 16) (s : State) : Host.Outcome State Fault Refusal :=
  done (s.asControl m .write (requestsCue 2 m) fun s a => s.treatControlWrite m a)

/-- LATCH_SET (R141): a latch request other than 0. -/
def execLatchSet (m : Fin 16) (s : State) : Host.Outcome State Fault Refusal :=
  done (s.asControl m .write (State.requests 0x41 (fun b => b != 0) m) fun s a => s.treatControlWrite m a)

/-- LATCH_CLEAR (R141): a latch request of 0 from the incident master. -/
def execLatchClear (m : Fin 16) (s : State) : Host.Outcome State Fault Refusal :=
  done (s.asControl m .write (clearsLatch m) fun s a => s.treatControlWrite m a)

/-- ACCESS_FAULT_CLEAR (R170): an access-fault clear other than 0. -/
def execAccessFaultClear (m : Fin 16) (s : State) : Host.Outcome State Fault Refusal :=
  done (s.asControl m .write (State.requests 0x42 (fun b => b != 0) m) fun s a => s.treatControlWrite m a)

/-- MEMORY_FAULT_CLEAR (R170): a memory-fault clear other than 0. -/
def execMemoryFaultClear (m : Fin 16) (s : State) : Host.Outcome State Fault Refusal :=
  done (s.asControl m .write (State.requests 0x43 (fun b => b != 0) m) fun s a => s.treatControlWrite m a)

/-- EVENT_CONSUMER_INDEX_WRITE (R175): an event consumer index. -/
def execEventConsumerIndexWrite (m : Fin 16) (s : State) : Host.Outcome State Fault Refusal :=
  done (s.asControl m .write (State.requests 0x44 (fun _ => true) m) fun s a => s.treatControlWrite m a)

/-- MISS_LIMIT_WRITE (R164): a miss limit. -/
def execMissLimitWrite (m : Fin 16) (s : State) : Host.Outcome State Fault Refusal :=
  done (s.asControl m .write (State.requests 0x45 (fun _ => true) m) fun s a => s.treatControlWrite m a)

/-- EVENT_ENABLE_MASK_WRITE (R172): a byte of the event enable mask. -/
def execEventEnableMaskWrite (m : Fin 16) (s : State) : Host.Outcome State Fault Refusal :=
  done (s.asControl m .write (writesMask m) fun s a => s.treatControlWrite m a)

/-- SOFT_RESET (R167): a soft-reset request other than 0. -/
def execSoftReset (m : Fin 16) (s : State) : Host.Outcome State Fault Refusal :=
  done (s.asControl m .write (requestsSoftReset m) fun s a => s.treatControlWrite m a)

end Sys2Proof.Machine
end

