-- ==== Sys2Proof/Machine/PartCommands.lean ====
section
/-! DEFINITION. The commands of the part's own operations: the two ends of a hard reset, the image write-out, write-backs
and event writes. -/

namespace Sys2Proof.Machine

/-- HARD_RESET (R27, R165). -/
def execHardReset (s : State) : Host.Outcome State Fault Refusal := done s.hardReset

/-- RESET_RELEASE (R165). -/
def execResetRelease (base : BitVec 8) (master : BitVec 4) (divider : BitVec 6) (s : State) :
    Host.Outcome State Fault Refusal :=
  done (s.catchUp.release base master divider)

/-- IMAGE_WRITE_OUT_BURST_ANSWER (R166). -/
def execImageWriteOutBurstAnswer (k : Fin 80) (ok : Bool) (s : State) : Host.Outcome State Fault Refusal :=
  done (match s.catchUp.writeOut with
    | none => s.catchUp
    | some o => if o.left.contains k.val then s.catchUp.answerWriteOut o k.val ok else s.catchUp)

/-- WRITE_BACK_START (R160). -/
def execWriteBackStart (s : State) : Host.Outcome State Fault Refusal := done s.catchUp.startWriteBack

/-- WRITE_BACK_BURST_ANSWER (R161, R162). -/
def execWriteBackBurstAnswer (k : Fin 2) (ok : Bool) (s : State) : Host.Outcome State Fault Refusal :=
  done (match s.catchUp.writeBack with
    | none => s.catchUp
    | some b => if b.left.contains k.val then s.catchUp.answerWriteBack b k.val ok else s.catchUp)

/-- EVENT_WRITE_ISSUE (R174). -/
def execEventWriteIssue (s : State) : Host.Outcome State Fault Refusal := done s.catchUp.issueEvent

/-- EVENT_WRITE_ANSWER (R174). -/
def execEventWriteAnswer (ok : Bool) (s : State) : Host.Outcome State Fault Refusal := done (s.catchUp.answerEvent ok)

end Sys2Proof.Machine
end

