-- ==== Sys2Proof/Machine/MemoryPort.lean ====
section
/-! DEFINITION. The memory port as it stands: every access that the part has issued and the memory has not answered,
read off the state (log 11). -/

namespace Sys2Proof.Machine

/-- The accesses that stand at the memory port for a master's access in service (R16): its own, unless the memory has
answered it, and the clip read beside it (R134). -/
def Stage.portAccesses : Stage → List MemAccess
  | .issued i =>
    (if i.answer.isSome then [] else [i.port]) ++
      (match i.clip with
        | .absent => []
        | .issued p => [p]
        | .answered _ => [])
  | .waiting => []
  | .taken _ => []
  | .heldWriteOut => []
  | .heldWriteBack => []
  | .heldRecords _ => []
  | .heldSlot _ _ => []
  | .heldPending _ => []
  | .translating _ _ _ => []

/-- The map fetch at the memory port (R41): one word, number 16, all byte enables on, at the map entry address. -/
def State.fetchAccess (s : State) : List MemAccess :=
  match s.fetch with
  | none => []
  | some f => [ownRead f.request.mapAddr 1]

/-- The two words of an event record that are not 0 (R174, R155). -/
def Event.words (e : Event) : List Word :=
  [BitVec.ofNat 32 (e.kind.code + 256 * e.object + 65536 * e.tag.toNat + 16777216 * e.reason), e.tick, 0, 0]

/-- The address of ring record `i mod 64` (R173). -/
def State.ringAddr (s : State) (i : BitVec 7) : Addr := s.regionBase + BitVec.ofNat 32 (0x1400 + 16 * (i.toNat % 64))

/-- The event write at the memory port (R174). -/
def State.eventAccess (s : State) : List MemAccess :=
  match s.eventInFlight, s.events with
  | true, e :: _ =>
    [{ number := Config.ownNumber, dir := .write, addr := s.ringAddr s.producer, be := allOn 4, data := e.words }]
  | _, _ => []

/-- The write-back bursts at the memory port (R160). -/
def State.backAccesses (s : State) : List MemAccess :=
  match s.writeBack with
  | none => []
  | some b => b.left.filterMap (fun k => b.bursts[k]?)

/-- Word `k` of the write-out's image. -/
def WriteOut.word (o : WriteOut) (k : Nat) : Word :=
  (o.image.getD (4 * k + 3) 0) ++ (o.image.getD (4 * k + 2) 0) ++ (o.image.getD (4 * k + 1) 0) ++ (o.image.getD (4 * k) 0)

/-- Burst `k` of the image write-out (R166): 16 words, all byte enables on, number 16. -/
def State.imageBurst (s : State) (o : WriteOut) (k : Nat) : MemAccess :=
  { number := Config.ownNumber, dir := .write, addr := s.imageAddr k, be := allOn 16,
    data := (List.range' (16 * k) 16).map o.word }

/-- The write-out bursts at the memory port (R166). -/
def State.imageAccesses (s : State) : List MemAccess :=
  match s.writeOut with
  | none => []
  | some o => o.left.map (s.imageBurst o)

/-- The flush bursts at the memory port (R71): those of the slots, then those issued before a soft reset (R81). -/
def State.flushAccesses (s : State) : List MemAccess :=
  ((List.finRange 16).flatMap s.unansweredBursts ++ s.staleBursts).map (·.port)

/-- Every access that stands at the memory port. -/
def State.memoryPort (s : State) : List MemAccess :=
  ((List.finRange 16).flatMap fun m => (s.stage m).portAccesses) ++ s.flushAccesses ++ s.fetchAccess ++ s.eventAccess ++
    s.backAccesses ++ s.imageAccesses

end Sys2Proof.Machine
end

