-- ==== Sys2Proof/Machine/Dispatch.lean ====
section
/-! DEFINITION. One arm per command. -/

namespace Sys2Proof.Machine

def exec (i : Instr) (s : State) : Host.Outcome State Fault Refusal :=
  match i with
  | .hardReset => Sys2Proof.Machine.execHardReset s
  | .imageWriteOutBurstAnswer k ok => Sys2Proof.Machine.execImageWriteOutBurstAnswer k ok s
  | .softReset m => Sys2Proof.Machine.execSoftReset m s
  | .accessRequest a => Sys2Proof.Machine.execAccessRequest a s
  | .accessTakenForService m => Sys2Proof.Machine.execAccessTakenForService m s
  | .unwindowedAccess m => Sys2Proof.Machine.execUnwindowedAccess m s
  | .uplinkWrite m => Sys2Proof.Machine.execUplinkWrite m s
  | .deadlineExpiry n => Sys2Proof.Machine.execDeadlineExpiry n s
  | .flushBurstAnswer n k ok => Sys2Proof.Machine.execFlushBurstAnswer n k ok s
  | .uplinkRead m => Sys2Proof.Machine.execUplinkRead m s
  | .downlinkWrite m => Sys2Proof.Machine.execDownlinkWrite m s
  | .downlinkRead m => Sys2Proof.Machine.execDownlinkRead m s
  | .talkthroughSourceAnswer m r => Sys2Proof.Machine.execTalkthroughSourceAnswer m r s
  | .programWrite m => Sys2Proof.Machine.execProgramWrite m s
  | .programRead m => Sys2Proof.Machine.execProgramRead m s
  | .clipReadAnswer m r => Sys2Proof.Machine.execClipReadAnswer m r s
  | .memoryAccessAnswer m r => Sys2Proof.Machine.execMemoryAccessAnswer m r s
  | .translationQueueJoin => Sys2Proof.Machine.execTranslationQueueJoin s
  | .mapFetchIssue => Sys2Proof.Machine.execMapFetchIssue s
  | .mapFetchComplete ok entry => Sys2Proof.Machine.execMapFetchComplete ok entry s
  | .controlRegionRead m => Sys2Proof.Machine.execControlRegionRead m s
  | .controlRegionWrite m => Sys2Proof.Machine.execControlRegionWrite m s
  | .windowEnable m => Sys2Proof.Machine.execWindowEnable m s
  | .windowDisable m => Sys2Proof.Machine.execWindowDisable m s
  | .serviceEnable m => Sys2Proof.Machine.execServiceEnable m s
  | .serviceDisable m => Sys2Proof.Machine.execServiceDisable m s
  | .segmentEnable m => Sys2Proof.Machine.execSegmentEnable m s
  | .segmentDisable m => Sys2Proof.Machine.execSegmentDisable m s
  | .zoneTimingServiceWrite m => Sys2Proof.Machine.execZoneTimingServiceWrite m s
  | .activityTimerExpiry g => Sys2Proof.Machine.execActivityTimerExpiry g s
  | .segmentExclusionHandover g => Sys2Proof.Machine.execSegmentExclusionHandover g s
  | .departureNotice g => Sys2Proof.Machine.execDepartureNotice g s
  | .cueStart m => Sys2Proof.Machine.execCueStart m s
  | .cueStop m => Sys2Proof.Machine.execCueStop m s
  | .incidentLineChange high => Sys2Proof.Machine.execIncidentLineChange high s
  | .qualificationTimerExpiry => Sys2Proof.Machine.execQualificationTimerExpiry s
  | .latchSet m => Sys2Proof.Machine.execLatchSet m s
  | .latchClear m => Sys2Proof.Machine.execLatchClear m s
  | .accessFaultClear m => Sys2Proof.Machine.execAccessFaultClear m s
  | .memoryFaultClear m => Sys2Proof.Machine.execMemoryFaultClear m s
  | .eventConsumerIndexWrite m => Sys2Proof.Machine.execEventConsumerIndexWrite m s
  | .missLimitWrite m => Sys2Proof.Machine.execMissLimitWrite m s
  | .eventEnableMaskWrite m => Sys2Proof.Machine.execEventEnableMaskWrite m s
  | .eventWriteIssue => Sys2Proof.Machine.execEventWriteIssue s
  | .eventWriteAnswer ok => Sys2Proof.Machine.execEventWriteAnswer ok s
  | .writeBackStart => Sys2Proof.Machine.execWriteBackStart s
  | .writeBackBurstAnswer k ok => Sys2Proof.Machine.execWriteBackBurstAnswer k ok s
  | .resetRelease base master divider => Sys2Proof.Machine.execResetRelease base master divider s

end Sys2Proof.Machine
end

