-- ==== Sys2Proof/Machine/Step.lean ====
section
/-! DEFINITION. One step: the command at the front of the queue, or one tick of the timebase when none waits. -/

namespace Sys2Proof.Machine

/-- What a step does on an empty queue (log 2): the part does what it does of itself, and while the reset is released one
microsecond passes (R165). No timer fires by itself: its expiry is a command (log 3). -/
def State.tick (s : State) : State :=
  let s' := s.catchUp.settle
  if s'.resetLow then s' else { s' with timebase := s'.timebase + 1 }

/-- The command at the front of the queue acts on everything but the queue, which keeps the rest. -/
def step (s : State) : Host.Outcome State Fault Refusal :=
  match s.pending with
  | [] => .next s.tick
  | c :: rest => exec c { s with pending := rest }

/-- `s` with the command that the word spells put at the front of its queue; no word spells one. -/
def State.withFetchWord (s : State) (nbits w : Nat) : State :=
  match decodeTableWord nbits w with
  | some c => { s with pending := c :: s.pending }
  | none => s

end Sys2Proof.Machine
end

