-- ==== Sys2Proof/Safety.lean ====
section
/-! DEFINITION. What counts as a sound state of the VH-2640, in the terms that the statements use: promises that the manual
makes about the whole part, and which command acts on whose access. -/

namespace Sys2Proof.Machine

/-! ## Promises kept by every step -/

/-- R159: no identifier stands twice on the write-back list. -/
def State.ListSound (s : State) : Prop := (s.writeBackList.map (·.id)).Nodup

/-- R148: in NORMAL no master is barred. -/
def State.BarSound (s : State) : Prop := s.incident = false → s.barred = 0

/-- R25, R40, R37: a master's queue holds at most 4 accesses, the translation queue at most 8 requests, the map cache at
most 8 entries. -/
def State.BoundSound (s : State) : Prop :=
  (∀ m, (s.ports.get m).queue.length ≤ 4) ∧ s.translations.length ≤ 8 ∧ s.cache.length ≤ 8

/-- R96, R99: a segment is OFFLINE exactly while its enable is 0, and its activity timer runs only while it is ACTIVE. -/
def SegmentEntry.Sound (e : SegmentEntry) : Prop :=
  (e.enable = true ↔ e.state ≠ .offline) ∧ (e.timer ≠ none → e.state = .active)

/-- Every segment entry is sound. -/
def State.SegmentSound (s : State) : Prop := ∀ g, (s.segments.get g).Sound

/-- R28, R158: a window is never enabled and retiring at once, its size code is at most 14, and its base is aligned down
to its size. -/
def WindowEntry.Sound (e : WindowEntry) : Prop :=
  ¬(e.enable = true ∧ e.retiring = true) ∧ e.size ≤ 14 ∧ e.base.toNat % (1024 * 2 ^ e.size) = 0

/-- Every window entry is sound. -/
def State.WindowSound (s : State) : Prop := ∀ w, (s.windows.get w).Sound

/-- R13: a frame record's Gd is at most 16384. -/
def FrameRecord.Sound (r : FrameRecord) : Prop := r.gd ≤ 16384

/-- R13: the Gd of a zone, and of each of its frame records, is at most 16384. -/
def ZoneRecord.Sound (r : ZoneRecord) : Prop :=
  r.gd ≤ 16384 ∧ (∀ f, r.current = some f → f.Sound) ∧ (∀ f, r.previous = some f → f.Sound)

/-- R13: every zone's gain, and every cue's duck target, is at most 16384. -/
def State.GainSound (s : State) : Prop := (∀ c, (s.cues.get c).duck ≤ 16384) ∧ ∀ z, (s.zones.get z).Sound

/-- R49: no two slots outside FREE, no slot outside FREE and pending allocation, and no two pending allocations hold the
same window and frame index. -/
def State.FrameSound (s : State) : Prop :=
  (∀ n k, (s.slots.get n).state ≠ .free → (s.slots.get k).state ≠ .free → (s.slots.get n).window = (s.slots.get k).window →
    (s.slots.get n).frame = (s.slots.get k).frame → n = k) ∧
  (∀ n, ∀ p ∈ s.allocs, (s.slots.get n).state ≠ .free →
    ¬((s.slots.get n).window = p.window ∧ (s.slots.get n).frame = p.frame)) ∧
  s.allocs.Pairwise (fun p q => ¬(p.window = q.window ∧ p.frame = q.frame))

/-- R49, R64: an expected set has no repeats, and every segment in the expected set of a slot outside FREE is ACTIVE or has a
DONE contribution there, unless the notice of its departure is still to be taken (log 44). -/
def State.ExpectSound (s : State) : Prop :=
  ∀ n, (s.slots.get n).expected.Nodup ∧ ((s.slots.get n).state ≠ .free → ∀ g ∈ (s.slots.get n).expected,
    (s.segments.get g).state = .active ∨ ((s.slots.get n).contribs.get g).state = .done ∨ g ∈ s.departures)

/-- R113, R115: a cue that is IDLE waits, plays and is suspended in no zone; a cue that is not has a level from 1 to 7, and
no other cue that is not IDLE has its tag. -/
def State.CueSound (s : State) : Prop :=
  (∀ c, (s.cues.get c).level ≤ 7 ∧ ((s.cues.get c).state = .idle → s.member c = false) ∧
    ((s.cues.get c).state ≠ .idle → (s.cues.get c).level ≠ 0)) ∧
  ∀ c d, (s.cues.get c).state ≠ .idle → (s.cues.get d).state ≠ .idle → (s.cues.get c).tag = (s.cues.get d).tag → c = d

/-- R127 to R129: a zone's stack entries carry their cues' levels, which fall from the top of the stack down and stand below
the active cue's; a zone with no active cue has an empty stack; and the mask level is the active cue's level, or 0. -/
def State.StackSound (s : State) : Prop :=
  ∀ z, (∀ e ∈ (s.zones.get z).stack, e.level = (s.cues.get e.cue).level) ∧
    ((s.zones.get z).stack.map (·.level)).Pairwise (· > ·) ∧
    (∀ a, (s.zones.get z).active = some a → (∀ e ∈ (s.zones.get z).stack, e.level < (s.cues.get a.cue).level) ∧
      (s.zones.get z).mask = (s.cues.get a.cue).level) ∧
    ((s.zones.get z).active = none → (s.zones.get z).stack = [] ∧ (s.zones.get z).mask = 0)

/-! ## What a control-region write leaves -/

/-- The state that a control-region write of `m` leaves once it has been taken and issued (R149, R156, R158, R160; logs 17,
30, 37): one charge for the bytes that protection masks, then every record that it is a write to takes its unmasked bytes, in
ascending address, then the request block, and the write stands at the memory port with the byte enables that are left. -/
def State.written (s : State) (m : Fin 16) (a : Access) : State :=
  let s0 : State := { s with due := s.due.tail }
  let charged : State := match s.protectedBytes m a with
    | [] => s0
    | x :: _ => s0.countProtected m (s.regionBase + BitVec.ofNat 32 (x.off - x.off % 4))
  let acted : State := ((s.recordsWritten m a).foldl (State.takeRecord (s.keptBytes m a)) charged).takeRequest
    (s.keptBytes m a) m
  acted.issueMasked m a (s.keptEnables m a) (changedRecords charged acted (s.recordsWritten m a) (s.keptBytes m a))

/-! ## Whose access a command acts on -/

/-- The master whose access in service the command hands on to a block, if it is such a command. -/
def handsOn : Instr → Option (Fin 16)
  | .softReset m | .unwindowedAccess m | .uplinkWrite m | .uplinkRead m | .downlinkWrite m | .downlinkRead m
  | .programWrite m | .programRead m | .controlRegionRead m | .controlRegionWrite m | .windowEnable m | .windowDisable m
  | .serviceEnable m | .serviceDisable m | .segmentEnable m | .segmentDisable m | .zoneTimingServiceWrite m | .cueStart m
  | .cueStop m | .latchSet m | .latchClear m | .accessFaultClear m | .memoryFaultClear m | .eventConsumerIndexWrite m
  | .missLimitWrite m | .eventEnableMaskWrite m => some m
  | .hardReset | .imageWriteOutBurstAnswer _ _ | .accessRequest _ | .accessTakenForService _ | .deadlineExpiry _
  | .flushBurstAnswer _ _ _ | .talkthroughSourceAnswer _ _ | .clipReadAnswer _ _ | .memoryAccessAnswer _ _
  | .translationQueueJoin | .mapFetchIssue | .mapFetchComplete _ _ | .activityTimerExpiry _
  | .segmentExclusionHandover _ | .departureNotice _ | .incidentLineChange _ | .qualificationTimerExpiry
  | .eventWriteIssue | .eventWriteAnswer _ | .writeBackStart | .writeBackBurstAnswer _ _ | .resetRelease _ _ _ => none

/-- The command is about a taken access `a` of the class `k` (log 1): its role and direction, or, for a control-region
write, what its unmasked bytes carry. -/
def isAbout (c : Instr) (s : State) (a : Access) (k : Cls) : Bool :=
  let sample (r : Role) (d : Dir) : Bool :=
    match k with
    | .window hit => hit.role == r && a.dir == d
    | .control => false
    | .unwindowed => false
  let control (d : Dir) : Bool := k == .control && a.dir == d
  match c with
  | .unwindowedAccess _ => k == .unwindowed
  | .uplinkWrite _ => sample .uplink .write
  | .uplinkRead _ => sample .uplink .read
  | .downlinkWrite _ => sample .downlink .write
  | .downlinkRead _ => sample .downlink .read
  | .programWrite _ => sample .program .write
  | .programRead _ => sample .program .read
  | .controlRegionRead _ => control .read
  | .controlRegionWrite _ => control .write
  | .windowEnable m => control .write && enablesWindow m s a
  | .windowDisable m => control .write && disablesWindow m s a
  | .serviceEnable m => control .write && enablesService m s a
  | .serviceDisable m => control .write && disablesService m s a
  | .segmentEnable m => control .write && enablesSegment m s a
  | .segmentDisable m => control .write && disablesSegment m s a
  | .zoneTimingServiceWrite m => control .write && movesTimingService m s a
  | .cueStart m => control .write && requestsCue 1 m s a
  | .cueStop m => control .write && requestsCue 2 m s a
  | .latchSet m => control .write && State.requests 0x41 (fun b => b != 0) m s a
  | .latchClear m => control .write && clearsLatch m s a
  | .accessFaultClear m => control .write && State.requests 0x42 (fun b => b != 0) m s a
  | .memoryFaultClear m => control .write && State.requests 0x43 (fun b => b != 0) m s a
  | .eventConsumerIndexWrite m => control .write && State.requests 0x44 (fun _ => true) m s a
  | .missLimitWrite m => control .write && State.requests 0x45 (fun _ => true) m s a
  | .eventEnableMaskWrite m => control .write && writesMask m s a
  | .softReset m => control .write && requestsSoftReset m s a
  | .hardReset | .imageWriteOutBurstAnswer _ _ | .accessRequest _ | .accessTakenForService _ | .deadlineExpiry _
  | .flushBurstAnswer _ _ _ | .talkthroughSourceAnswer _ _ | .clipReadAnswer _ _ | .memoryAccessAnswer _ _
  | .translationQueueJoin | .mapFetchIssue | .mapFetchComplete _ _ | .activityTimerExpiry _
  | .segmentExclusionHandover _ | .departureNotice _ | .incidentLineChange _ | .qualificationTimerExpiry
  | .eventWriteIssue | .eventWriteAnswer _ | .writeBackStart | .writeBackBurstAnswer _ _ | .resetRelease _ _ _ => false

/-- The command is about what the part does of itself next: the taking that it names, or the handing on of an access of its
kind (logs 1, 5, 6). -/
def State.Own (s : State) (c : Instr) (d : Due) : Prop :=
  match d with
  | .take m => c = .accessTakenForService m
  | .hand m => handsOn c = some m ∧ ∃ a k, s.front m = some a ∧ s.stage m = .taken k ∧ isAbout c s a k = true

/-! ## Where an access stands -/

/-- Nothing is left that the part does of itself before the next command acts (logs 5, 6, 44). -/
def State.AtRest (s : State) : Prop := s.due = [] ∧ s.departures = []

/-- `d` is what the part does of itself next (logs 5, 6, 44). -/
def State.NextDue (s : State) (d : Due) : Prop := s.departures = [] ∧ s.due.head? = some d

/-- R25 (log 5): the oldest access `a` of `m` has been taken, is classified as `c`, and is the next to be handed on. -/
def State.Turn (s : State) (m : Fin 16) (a : Access) (c : Cls) : Prop :=
  s.NextDue (.hand m) ∧ s.front m = some a ∧ s.stage m = .taken c

/-- Nothing is left that the part does of itself, and the oldest access `a` of `m` stands at the memory port as `i`. -/
def State.AtMemory (s : State) (m : Fin 16) (a : Access) (i : Issue) : Prop :=
  s.AtRest ∧ s.front m = some a ∧ s.stage m = .issued i

/-- The frames that a flush or a read of frame `f` of window `w` asks for lie outside the control region, and the window's
translation in force is DIRECT: the translation is given at once (R34, R36). -/
def State.Direct (s : State) (w : Fin 16) (f : Nat) : Prop :=
  (s.windows.get w).translation.1 = false ∧ s.inRegion (directFrame (s.windows.get w).translation.2 f) = false

end Sys2Proof.Machine
end

