-- ==== Sys2Proof/Certificates/Slice0/Obligations.lean ====
section
/-! DEFINITION. The statements for the provers. Where a statement says `u.settle`, `u` is the state that the command's own
effect leaves; SettleEffects says what settling adds to it. `{ s with due := s.due.tail }` says that the item that the
command is about is off the list of what the part does of itself (logs 5, 6). A conjunct `u = { s with f := u.f, … }` is a
frame: every field not named stands as it did. -/

open Sys2Proof Sys2Proof.Machine

/-! ## The queue of commands, and what the part does of itself -/

/-- A step at a state with a command waiting is that command on the state with the rest of the queue. The model's choice
(log 2): with no command waiting a step is one tick of the timebase (R165), which stands still while the reset pin is low,
after what the part does of itself. -/
def Obligations.StepRunsFrontCommand : Prop :=
  (∀ (c : Instr) (rest : List Instr) (s : State),
    step { s with pending := c :: rest } = exec c { s with pending := rest }) ∧
  (∀ s : State, s.pending = [] →
    step s = step s.catchUp ∧
    (s.AtRest → s.resetLow = false → step s = .next { s.settle with timebase := s.timebase + 1 }) ∧
    (s.AtRest → s.resetLow = true → step s = .next s.settle))

/-- The model's choice (logs 5, 6, 44), from R25's and R26's moments: before a command acts, the Combiner takes every
departure notice that it has been given, and then the part takes and hands on the accesses that are due, oldest first, up to
the one that the command is about, which acts as the part would have; so a part that has caught up is at rest. A hard reset
alone waits for nothing. -/
def Obligations.DueComesFirst : Prop :=
  (∀ (c : Instr) (s : State), c ≠ .hardReset →
    (s.departures ≠ [] → (∀ g ∈ s.departures, c ≠ .departureNotice g) → exec c s = exec c s.giveNotices) ∧
    (∀ d, s.NextDue d → ¬s.Own c d → exec c s = exec c (s.doDue d)) ∧
    (∀ d, s.NextDue d → s.Own c d →
      exec c s = .next (State.settle (State.actDue { s with due := s.due.tail } d)))) ∧
  (∀ s : State, s.catchUp.AtRest ∧ (s.AtRest → s.catchUp = s)) ∧
  (∀ (s : State) (m : Fin 16) (rest : List Due),
    (s.due = .take m :: rest →
      s.doDue (.take m) = State.giveNotices (State.settle (State.takeAccess { s with due := rest } m))) ∧
    (s.due = .hand m :: rest →
      s.doDue (.hand m) = State.giveNotices (State.settle (State.treat { s with due := rest } m))))

/-- R16 (log 36): a command stops only where it presents an access that the system port cannot carry; every other command,
in every state, answers a next state, and it leaves the queue of commands as it stands. -/
def Obligations.OnlyMalformedAccessStops : Prop :=
  ∀ (c : Instr) (s : State),
    (c.wellFormed = true → ∃ t, exec c s = .next t ∧ t.pending = s.pending) ∧
    (c.wellFormed = false → exec c s = .refused .malformedAccess)

/-- What settling adds after every command: a retirement with nothing left of its window ends (R32), and the requests that
wait at the port join their masters' queues while the port is open (R25, R40). With the port closed none is taken, and no queue
takes one beyond 4. That they are taken in the order in which they were presented, the first that cannot be taken holding back
the rest, is the model's choice (log 7). An access that joins an empty queue is due to be taken at this moment (log 6) and is
the last that settling takes: the port is closed until it has been handed on, as AccessRequested says. -/
def Obligations.SettleEffects : Prop :=
  ∀ s : State,
    let ends (w : Fin 16) : Bool := (s.windows.get w).retiring && !s.windowBusy w
    s.settle = { s with
        ports := s.settle.ports, portWaiting := s.settle.portWaiting, due := s.settle.due, windows := s.settle.windows,
        cache := s.settle.cache, writeBackList := s.settle.writeBackList } ∧
    (∀ w, s.settle.windows.get w =
      if ends w then { s.windows.get w with retiring := false, horizon := none, captured := none }
      else s.windows.get w) ∧
    s.settle.cache = s.cache.filter (fun c => !ends c.window) ∧
    (∀ id, s.settle.listed id = true ↔ s.listed id = true ∨ ∃ w, id = .window w ∧ ends w = true) ∧
    (∃ taken, s.portWaiting = taken ++ s.settle.portWaiting ∧
      (∀ m, s.settle.ports.get m =
        { s.ports.get m with queue := (s.ports.get m).queue ++ taken.filter (fun a => a.master = m) }) ∧
      s.settle.due = s.due ++
        (taken.filter (fun a => (s.ports.get a.master).queue = [])).map (fun a => Due.take a.master) ∧
      (∀ a ∈ taken.dropLast, (s.ports.get a.master).queue ≠ []) ∧
      (∀ a ∈ taken, (s.settle.ports.get a.master).queue.length ≤ 4) ∧
      (s.portOpen = false → taken = [])) ∧
    (∀ a, s.settle.portWaiting.head? = some a →
      s.settle.portOpen = false ∨ 4 ≤ (s.settle.ports.get a.master).queue.length)

/-! ## Faults, events and the write-back list -/

/-- R172, R173: an event of a disabled kind is discarded; an enabled one is accepted with its fields and the tick while the
ring count and the pending list together are below 64, else dropped and counted. That it is dropped also where the two come
to more than 64, which a consumer index written while events are pending can bring about, is the model's reading (log 38). -/
def Obligations.EventJudged : Prop :=
  ∀ (s : State) (k : EventKind) (object : Nat) (tag : Byte) (reason : Nat),
    (s.request.eventMask.getLsbD k.code = false → s.raiseEvent k object tag reason = s) ∧
    (s.request.eventMask.getLsbD k.code = true → (s.producer - s.consumer).toNat + s.events.length < 64 →
      s.raiseEvent k object tag reason =
        { s with events := s.events ++ [{ kind := k, object := object, tag := tag, reason := reason, tick := s.now }] }) ∧
    (s.request.eventMask.getLsbD k.code = true → 64 ≤ (s.producer - s.consumer).toNat + s.events.length →
      s.raiseEvent k object tag reason =
        { s with
          lostEvents := min (s.lostEvents + 1) 65535
          writeBackList :=
            if s.lostEvents < 65535 then addListed .status [] s.writeBackList else s.writeBackList })

/-- R169: a fault fills the empty record of its class, or sets LOST in a valid one and is counted; in both cases event FAULT
is raised with the master and the kind. The two classes have records of their own. A record that changes is listed, and so is
the status block when the count rises; the other records of the list stand as they did (ListingOnce). -/
def Obligations.FaultRecorded : Prop :=
  ∀ (s : State) (k : FaultKind) (master : Nat) (addr : Addr) (window : Option (Fin 16)),
    let r := s.faultRecord k.memoryClass
    let record (c : Bool) : RecordId := if c then .memoryFault else .accessFault
    (r.valid = false →
      s.raiseFault k master addr window =
        (s.setFaultRecord k.memoryClass
          { valid := true, kind := some k, master := master, addr := addr, window := window, lost := false }).raiseEvent
          .fault master 0 k.code) ∧
    (r.valid = true → ∃ u,
      s.raiseFault k master addr window = State.raiseEvent u .fault master 0 k.code ∧
      u = { s with
        accessFault := u.accessFault, memoryFault := u.memoryFault, lostFaults := min (s.lostFaults + 1) 65535,
        writeBackList := u.writeBackList } ∧
      u.faultRecord k.memoryClass = { r with lost := true } ∧
      u.faultRecord (!k.memoryClass) = s.faultRecord (!k.memoryClass) ∧
      s.writeBackList <+: u.writeBackList ∧
      (∀ id, u.listed id = true ↔ s.listed id = true ∨ (id = record k.memoryClass ∧ r.lost = false) ∨
        (id = .status ∧ s.lostFaults < 65535)) ∧
      ∀ x ∈ u.writeBackList, x ∈ s.writeBackList ∨ x.hostBytes = []) ∧
    (∀ (c : Bool) (x : FaultRecord), x ≠ s.faultRecord c → (s.setFaultRecord c x).faultRecord c = x ∧
      (s.setFaultRecord c x).faultRecord (!c) = s.faultRecord (!c) ∧
      (s.setFaultRecord c x).writeBackList = addListed (record c) [] s.writeBackList)

/-- R159: a record that stands on the list keeps its place and takes the host-owned bytes into its set; any other is
appended. The other records of the list stand as they did. -/
def Obligations.ListingOnce : Prop :=
  ∀ (id : RecordId) (host : List Nat) (l : List ListedRecord),
    (addListed id host l).map (·.id) = (if id ∈ l.map (·.id) then l.map (·.id) else l.map (·.id) ++ [id]) ∧
    (∀ r, r.id ≠ id → (r ∈ addListed id host l ↔ r ∈ l)) ∧
    ((l.map (·.id)).Nodup → ∀ r, r.id = id → r ∈ addListed id host l →
      ∀ o, o ∈ r.hostBytes ↔ o ∈ host ∨ ∃ q ∈ l, q.id = id ∧ o ∈ q.hostBytes)

/-! ## Arithmetic -/

/-- R5, R6, R12: scaling a lane by a gain code, its range, its rounding (a halfway value goes up) and its identities, and
that it is what combining (R7), equalising (R14) and, on a sum of products, the mix use; the clamp, and when it saturates;
and the mix of a word, which is clamped lane by lane: with no clip term and Gd 16384 it is the programme, with Gd 0 and Gi
16384 it is the clip. -/
def Obligations.ScaleRounds : Prop :=
  (∀ (s : Int) (g : Nat), -32768 ≤ s → s ≤ 32767 → g ≤ 65535 →
    scale s g = (s * g + 8192) / 16384 ∧
    (-2147450880 ≤ s * g ∧ s * g ≤ 2147385345) ∧ (-2147442688 ≤ s * g + 8192 ∧ s * g + 8192 ≤ 2147393537) ∧
    (2 * (s * g) - 16384 < 2 * (16384 * scale s g) ∧ 2 * (16384 * scale s g) ≤ 2 * (s * g) + 16384) ∧
    (-131070 ≤ scale s g ∧ scale s g ≤ 131066) ∧
    scale s 16384 = s ∧ scale s 0 = 0 ∧ scale 0 g = 0) ∧
  (∀ (acc x : Lanes) (g : Nat), acc.addScaled x g = { lo := acc.lo + scale x.lo g, hi := acc.hi + scale x.hi g }) ∧
  (∀ (g : Nat) (w : Word),
    equaliseWord g w = wordOf (clampLane (scale (laneLo w) g)) (clampLane (scale (laneHi w) g))) ∧
  (∀ (p c : Int) (gd gi : Nat), mixLane p c gd gi = clampLane ((p * gd + c * gi + 8192) / 16384)) ∧
  (∀ (p c : Word) (gd gi : Nat),
    mixWord p c gd gi = wordOf (mixLane (laneLo p) (laneLo c) gd gi) (mixLane (laneHi p) (laneHi c) gd gi) ∧
    mixWord p 0 16384 gi = p ∧ mixWord p c 0 16384 = c) ∧
  (∀ (p c : Int) (gd gi : Nat), -32768 ≤ mixLane p c gd gi ∧ mixLane p c gd gi ≤ 32767) ∧
  (∀ x : Int, clampLane x = (if x < -32768 then -32768 else if 32767 < x then 32767 else x) ∧
    (saturates x = true ↔ clampLane x ≠ x))


/-- R10: the update of a gate, and that an OPEN gate closes after H + 1 updates below the close threshold. -/
def Obligations.GateHysteresis : Prop :=
  ∀ (g : Gate) (p openT closeT h : Nat), closeT ≤ openT →
    (openT ≤ p → g.update p openT closeT h = { isOpen := true, hold := h }) ∧
    (closeT ≤ p → p < openT → g.update p openT closeT h = if g.isOpen then { isOpen := true, hold := h } else g) ∧
    (p < closeT → 0 < g.hold → g.update p openT closeT h =
      if g.isOpen then { isOpen := true, hold := g.hold - 1 } else g) ∧
    (p < closeT → g.hold = 0 → g.update p openT closeT h = { isOpen := false, hold := 0 }) ∧
    (∀ ps : List Nat, (∀ x ∈ ps, x < closeT) → g.isOpen = true →
      ((ps.foldl (fun g x => g.update x openT closeT h) g).isOpen = false ↔ g.hold + 1 ≤ ps.length))

/-- R13: one ramp step, that it keeps between 0 and 16384 and does not pass its target, and that steps of size S reach the
target once they cover the distance. -/
def Obligations.RampReachesTarget : Prop :=
  ∀ (target gd step : Nat), target ≤ 16384 → gd ≤ 16384 →
    rampStep target gd step =
      (if target < gd then max target (gd - step) else if gd < target then min target (gd + step) else gd) ∧
    rampStep target gd step ≤ 16384 ∧
    (target ≤ gd → target ≤ rampStep target gd step) ∧ (gd ≤ target → rampStep target gd step ≤ target) ∧
    (∀ n, gd ≤ target + n * step → target ≤ gd + n * step → (fun g => rampStep target g step)^[n] gd = target)

/-- R7: the accumulators after two accepted bursts do not depend on their order, and a burst adds the same whether it comes
whole or in two parts. -/
def Obligations.CombineOrderFree : Prop :=
  ∀ (acc : List Lanes) (o o' g g' : Nat) (xs ys : List Lanes),
    addBurst (addBurst acc o g xs) o' g' ys = addBurst (addBurst acc o' g' ys) o g xs ∧
    addBurst acc o g (xs ++ ys) = addBurst (addBurst acc o g xs) (o + xs.length) g ys ∧
    (∀ (k : Nat) (a x : Lanes), acc[k]? = some a → o ≤ k → xs[k - o]? = some x →
      (addBurst acc o g xs)[k]? = some { lo := a.lo + scale x.lo g, hi := a.hi + scale x.hi g }) ∧
    (∀ k, k < o ∨ o + xs.length ≤ k → (addBurst acc o g xs)[k]? = acc[k]?)

/-! ## Resets and the image write-out -/

/-- R27, R33, R50, R80, R93, R110, R138, R151, R165: what a hard reset leaves, in every state. The queue of commands and the
raw level of the incident line are not the part's. That no request waits at the port is the model's choice (log 7), and the
list of responses is the model's own (log 11). What is left of the Frame Translator and of the Fault and Event Unit is stated
by TranslatorHardReset and FaultUnitResets. -/
def Obligations.HardResetValues : Prop :=
  ∀ s : State, ∃ t, exec .hardReset s = .next t ∧
    t.pending = s.pending ∧ t.line = s.line ∧ t.resetLow = true ∧
    (t.portWaiting = [] ∧ t.responses = [] ∧ t.due = [] ∧
      ∀ m, (t.ports.get m).queue = [] ∧ (t.ports.get m).stage = .waiting) ∧
    (∀ w, t.windows.get w =
      { enable := false, roleCode := 0, service := 0, size := 0, base := 0, mapped := false, target := 0,
        retiring := false, horizon := none, captured := none }) ∧
    (∀ v, t.services.get v =
      { enable := false, program := false, rescue := false, through := false, deadline := 0, holdFrames := 0,
        talkthrough := false, openThreshold := 0, closeThreshold := 0, source := 0, offset := 0, breakIn := false,
        complete := 0, short := 0, evictions := 0, saturated := 0, underruns := 0, flushErrors := 0, lastPower := 0 }) ∧
    (∀ g, t.segments.get g =
      { enable := false, zone := 0, stallTimeout := 0, uplinkServices := 0, downlinkGain := 0, uplinkGain := 0,
        state := .offline, consecutive := 0, total := 0, lateWrites := 0, sequenceErrors := 0, lagReads := 0,
        offlineAccesses := 0, gates := Vector.replicate 8 { isOpen := true, hold := 0 }, timer := none }) ∧
    (t.handovers = [] ∧ t.departures = []) ∧
    (∀ z, t.zones.get z =
      { timing := 0, ramp := 16384, mask := 0, active := none, stack := [], gd := 16384, current := none,
        previous := none }) ∧
    (∀ c, t.cues.get c =
      { tag := 0, level := 0, zones := 0, clip := 0, length := 1, repeats := 0, autoStart := false, gi := 0, duck := 16384,
        state := .idle, waiting := 0, lastEnd := .none, stopped := false }) ∧
    (∀ n, (t.slots.get n).state = .free ∧ (t.slots.get n).flush = none ∧ (t.slots.get n).timer = none ∧
      (t.slots.get n).held = [] ∧ (t.slots.get n).claimed = false ∧ (t.slots.get n).window = 0 ∧
      (t.slots.get n).frame = 0 ∧ (t.slots.get n).service = 0 ∧ (t.slots.get n).allocTick = 0 ∧
      (t.slots.get n).deadlineTick = 0 ∧ (t.slots.get n).expected = [] ∧ (t.slots.get n).satCount = 0 ∧
      (t.slots.get n).outcome = .none ∧ ∀ g, ((t.slots.get n).contribs.get g).state = .none ∧
        ((t.slots.get n).contribs.get g).next = 0 ∧ ((t.slots.get n).contribs.get g).gated = false) ∧
    (t.allocs = [] ∧ t.staleBursts = []) ∧
    (t.latch = false ∧ t.qualified = false ∧ t.qualTimer = none ∧ t.incident = false ∧ (∀ m, t.refusals.get m = 0) ∧
      t.barred = 0 ∧ t.protectedWrites = 0) ∧
    (t.request.softReset = 0 ∧ t.request.latch = 0 ∧ t.request.accessClear = 0 ∧ t.request.memoryClear = 0 ∧
      t.request.missLimit = 4) ∧
    (t.writeBackList = [] ∧ t.writeBack = none ∧ t.ready = false)

/-- R47: what a hard reset leaves of the Frame Translator. No request in its queue or waiting for it is answered and no access
stands at the memory port, as the model's list of responses and its reading of the memory port show (log 11); the fault
records are empty, as R177 lays down. -/
def Obligations.TranslatorHardReset : Prop :=
  ∀ s : State, ∃ t, exec .hardReset s = .next t ∧
    t.cache = [] ∧ t.translations = [] ∧ t.translationWaits = [] ∧ t.responses = [] ∧
    t.fetch = none ∧ t.memoryPort = [] ∧ t.hazards = [] ∧
    (∀ w, (t.windows.get w).retiring = false ∧ (t.windows.get w).captured = none) ∧
    t.accessFault.valid = false ∧ t.memoryFault.valid = false

/-- R177: what a hard reset leaves of the Fault and Event Unit, and that a soft reset keeps all of it where no access is held
at it. -/
def Obligations.FaultUnitResets : Prop :=
  (∀ s : State, ∃ t, exec .hardReset s = .next t ∧
    (t.accessFault = { valid := false, kind := none, master := 0, addr := 0, window := none, lost := false } ∧
      t.memoryFault = t.accessFault ∧ t.lostFaults = 0 ∧ t.producer = 0 ∧ t.consumer = 0 ∧ t.lostEvents = 0 ∧
      (∀ k : EventKind, t.eventEnabled k = true) ∧ t.events = [] ∧ t.eventInFlight = false ∧ t.attention = false)) ∧
  (∀ s : State, (∀ m, (s.stage m).isHeld = false) →
    s.softReset.accessFault = s.accessFault ∧ s.softReset.memoryFault = s.memoryFault ∧
      s.softReset.lostFaults = s.lostFaults ∧ s.softReset.producer = s.producer ∧ s.softReset.consumer = s.consumer ∧
      s.softReset.lostEvents = s.lostEvents ∧ s.softReset.request.eventMask = s.request.eventMask ∧
      s.softReset.events = s.events ∧ s.softReset.eventInFlight = s.eventInFlight ∧
      s.softReset.attention = s.attention)

/-- R165, R140, R166, R153: the release samples the straps, starts the timebase at 0, starts the qualification timer if the
line is high and begins the image write-out, whose 80 bursts then stand at the memory port, burst k carrying the image's 64
bytes from offset 64k, four to a word, the lowest in bits 7..0; so does any burst of a write-out, a soft reset's among them,
carry the image that it was started with. That they stand there together is the model's choice (log 22), and that nothing
runs while the pin is low, so that the write-out and the timer start at the release, is its reading (log 8). -/
def Obligations.ResetReleaseStarts : Prop :=
  (∀ (s : State) (base : BitVec 8) (master : BitVec 4) (divider : BitVec 6),
    s.AtRest → s.resetLow = true → s.qualified = false → s.qualTimer = none → s.writeOut = none → ∃ u,
    exec (.resetRelease base master divider) s = .next (State.settle u) ∧
    u = { s with
      resetLow := false, baseStraps := base, masterStraps := master, dividerStraps := divider, timebase := 0,
      qualTimer := (if s.line then some 10000 else none), writeOut := u.writeOut } ∧
    (∃ o, u.writeOut = some o ∧ o.soft = false ∧ o.left = List.range 80 ∧ o.failed = false ∧ o.image.length = 5120 ∧
      (∀ off < 5120, o.image[off]? = some (imageByte u.view off)) ∧
      ∀ k < 80, ∃ p ∈ u.memoryPort, p.number = 16 ∧ p.dir = .write ∧
        p.addr = u.regionBase + BitVec.ofNat 32 (64 * k) ∧ p.be = List.replicate 16 0xF ∧ p.data.length = 16 ∧
        ∀ i < 16,
          let image (j : Nat) : Byte := imageByte u.view (64 * k + 4 * i + j)
          p.data[i]? = some (image 3 ++ image 2 ++ image 1 ++ image 0)) ∧
    u.regionBase = base ++ (0 : BitVec 24) ∧ u.incidentMaster = master.toFin) ∧
  ∀ (s : State) (o : WriteOut), s.writeOut = some o →
    s.imageAccesses = o.left.map fun k =>
      { number := 16, dir := .write, addr := s.regionBase + BitVec.ofNat 32 (64 * k), be := List.replicate 16 0xF,
        data := (List.range 16).map fun i =>
          let held (j : Nat) : Byte := o.image.getD (64 * k + 4 * i + j) 0
          held 3 ++ held 2 ++ held 1 ++ held 0 }

/-- R167, R27, R164, R94, R139, R81: a write of a value other than 0 to the soft-reset request, whatever else it carries. `p`
is the state after the write's bytes have acted and it has been issued (ControlWriteTaken; the order within the request block
is log 17's); from `p`, every table takes its reset value, the kept state stands, the image write-out starts, an access at
the memory port stands there with its treatment and its answers, the flush bursts issued, the map fetch (marked for discard,
R48), the write-back in flight (its answers void) and the event write stand there too, and each access held is classified
anew: one found to cross a boundary is refused, a control-region one is held by the write-out, another goes to memory at its
own address. That they are classified anew in ascending master number is the model's choice (log 24). -/
def Obligations.SoftResetTakes : Prop :=
  (∀ (s : State) (m : Fin 16) (a : Access) (b : Byte),
    s.Turn m a .control → a.dir = .write → s.writeHeld m a = false → carried (s.keptBytes m a) 0x40 = some b → b ≠ 0 →
    let p := s.written m a
    ∃ v : State, exec (.softReset m) s = .next (State.settle ((List.finRange 16).foldl State.reclassify v)) ∧
      v = { p with
        ports := v.ports, windows := Vector.replicate 16 windowReset, cache := [], translations := [],
        translationWaits := [], fetch := v.fetch, hazards := [], services := Vector.replicate 8 serviceReset,
        segments := Vector.replicate 12 segmentReset, zones := Vector.replicate 8 zoneReset,
        cues := Vector.replicate 32 cueReset, slots := Vector.replicate 16 slotReset, allocs := [],
        staleBursts := v.staleBursts, handovers := [], departures := [], due := v.due, request := v.request,
        writeBackList := [], writeBack := v.writeBack, ready := false, writeOut := v.writeOut } ∧
      v.due = p.due.filter (fun d => match d with | .take _ => true | .hand _ => false) ∧
      (∀ k, (v.ports.get k).queue = (p.ports.get k).queue ∧
        v.stage k = match p.stage k with | .issued i => .issued { i with changed := [] } | x => x) ∧
      v.fetch = p.fetch.map (fun f => { f with discard := true }) ∧
      v.writeBack = p.writeBack.map (fun w => { w with dropped := true }) ∧
      v.fetchAccess = p.fetchAccess ∧ v.backAccesses = p.backAccesses ∧ v.eventAccess = p.eventAccess ∧
      (v.flushAccesses.Perm p.flushAccesses ∧ ∀ b, b ∈ v.staleBursts ↔ b ∈ p.staleBursts ∨
        ∃ f, (p.slots.get b.slot).flush = some f ∧ b.burst ∈ f.left ∧ b.port =
          { number := 16, dir := .write, addr := f.phys + BitVec.ofNat 32 (64 * b.burst.val), be := List.replicate 16 0xF,
            data := (((p.slots.get b.slot).acc.drop (16 * b.burst.val)).take 16).map fun x =>
              wordOf (clampLane x.lo) (clampLane x.hi) }) ∧
      (v.request.softReset = 0 ∧ v.request.accessClear = 0 ∧ v.request.memoryClear = 0 ∧
        v.request.latch = (if p.latch then 1 else 0) ∧ v.request.missLimit = p.request.missLimit ∧
        v.request.eventMask = p.request.eventMask) ∧
      ∃ o, v.writeOut = some o ∧ o.soft = true ∧ o.left = List.range 80 ∧ o.failed = false ∧
        ∀ off < 5120, o.image[off]? = some (imageByte v.view off)) ∧
  (∀ (s : State) (m : Fin 16) (a : Access), s.front m = some a →
    s.reclassify m =
      if (s.stage m).isHeld = false then s
      else match boundaryFault (s.classify a.addr) (s.classify (lastAddr a)) with
        | some w => (s.raiseFault .boundary m.val a.addr w).respondDropped m a
        | none =>
          if s.inRegion a.addr then s.setStage m .heldWriteOut
          else s.setStage m (.issued
            { hit := none, port := { number := m.val, dir := a.dir, addr := a.addr, be := a.be, data := a.data },
              treat := .plain, answer := none, clip := .absent, changed := [] }))

/-- R166: an answer to a burst of the image write-out, in any order (log 22). The first ERROR records WRITEBACK_ERROR with
master 16, the burst's address and no window; the last answer makes the state READY, lists the status block, raises INIT_DONE
and lets every control-region access that the write-out held go on: as the model has it, they are to be handed on before any
other command acts, in ascending master number (logs 14, 23). -/
def Obligations.ImageWriteOutAnswered : Prop :=
  ∀ (s : State) (o : WriteOut) (k : Fin 80) (ok : Bool),
    s.AtRest → s.writeOut = some o → k.val ∈ o.left →
    let f := if ok = false ∧ o.failed = false then
        s.raiseFault .writebackError 16 (s.regionBase + BitVec.ofNat 32 (64 * k.val)) none else s
    let left := o.left.erase k.val
    (left ≠ [] → exec (.imageWriteOutBurstAnswer k ok) s =
      .next (State.settle { f with writeOut := some { o with left := left, failed := o.failed || !ok } })) ∧
    (left = [] → ∃ u, exec (.imageWriteOutBurstAnswer k ok) s = .next (State.settle u) ∧
      u = { (({ f with ready := true, writeOut := none } : State).list .status).raiseEvent .initDone
          (if o.soft then 1 else 0) 0 0 with ports := u.ports, due := u.due } ∧
      u.due = ((List.finRange 16).filter (fun m => s.stage m = .heldWriteOut)).map Due.hand ∧
      ∀ m, u.ports.get m =
        { s.ports.get m with stage := if s.stage m = .heldWriteOut then .taken .control else s.stage m })

/-! ## Write-backs and event writes -/

/-- R160: with no write-back in flight, no write-out running and no host write to the record still at memory, the oldest
record leaves the list and its write-back begins, with the bytes that it had to be written; while such a host write is at
memory none begins, as the model has it (logs 18, 41). Each burst is a write of at most 16 words with the part's number;
together they carry every byte to be written, with the value that the part holds, and no other byte is enabled. Only a zone
record takes two. -/
def Obligations.WriteBackStarts : Prop :=
  (∀ (s : State) (r : ListedRecord) (rest : List ListedRecord),
    s.AtRest → s.writeOut = none → s.writeBack = none → s.writeBackList = r :: rest →
    (s.awaitsWrite r.id = true → exec .writeBackStart s = .next s.settle) ∧
    (s.awaitsWrite r.id = false →
      ∃ b, exec .writeBackStart s = .next (State.settle { s with writeBackList := rest, writeBack := some b }) ∧
        b.id = r.id ∧ b.hostBytes = r.hostBytes ∧ b.failed = false ∧ b.dropped = false ∧
        b.left = List.range b.bursts.length ∧ b.bursts = ({ s with writeBackList := rest } : State).backBursts r)) ∧
  (∀ (s : State) (id : RecordId), s.awaitsWrite id = true ↔
    ∃ m i, s.stage m = .issued i ∧ id ∈ i.changed) ∧
  (∀ (s : State) (r : ListedRecord),
    (∀ p ∈ s.backBursts r, p.number = 16 ∧ p.dir = .write ∧ p.be.length ≤ 16 ∧ p.data.length = p.be.length) ∧
    ((s.backBursts r).length ≤ 2 ∧ ((s.backBursts r).length = 2 → ∃ z, r.id = .zone z)) ∧
    (∀ o < recordSize r.id, r.writes o = true → ∃ p ∈ s.backBursts r, ∃ i < p.be.length,
      p.addr + BitVec.ofNat 32 (4 * i) = s.regionBase + BitVec.ofNat 32 (recordOffset r.id + o - o % 4) ∧
      (p.be.getD i 0).getLsbD (o % 4) = true ∧
      (p.data.getD i 0).extractLsb' (8 * (o % 4)) 8 = recordByte s.view r.id o) ∧
    (∀ p ∈ s.backBursts r, ∀ i < p.be.length, ∀ j < 4, (p.be.getD i 0).getLsbD j = true →
      ∃ o < recordSize r.id, r.writes o = true ∧ o % 4 = j ∧
        p.addr + BitVec.ofNat 32 (4 * i) = s.regionBase + BitVec.ofNat 32 (recordOffset r.id + o - j)) ∧
    (∀ o, r.writes o = true ↔ hostOwned r.id o = false ∨ o ∈ r.hostBytes))

/-- R161, R160, R162, R167: an answer to a burst of the write-back in flight. Only the first ERROR records WRITEBACK_ERROR,
with master 16, the burst's address and no window, and none does where a soft reset has made the answers void; nothing lists
the record again for it and no value of the part is affected. The last answer ends the write-back, void or not, and the
accesses held on it go on (log 26): a read whose last awaited write-back this is goes to memory; a write is to be handed on
before any other command acts, as the model has it (log 23), in ascending master number (log 14). -/
def Obligations.WriteBackAnswered : Prop :=
  ∀ (s : State) (b : WriteBack) (k : Fin 2) (ok : Bool) (p : MemAccess),
    s.AtRest → s.writeBack = some b → k.val ∈ b.left → b.bursts[k.val]? = some p →
    let f := if ok = false ∧ b.failed = false ∧ b.dropped = false then s.raiseFault .writebackError 16 p.addr none else s
    let left := b.left.erase k.val
    (b.id ≠ .memoryFault → b.id ≠ .status → f.listed b.id = s.listed b.id) ∧
    (left ≠ [] → exec (.writeBackBurstAnswer k ok) s =
      .next (State.settle { f with writeBack := some { b with left := left, failed := b.failed || !ok } })) ∧
    (left = [] → ∃ u, exec (.writeBackBurstAnswer k ok) s = .next (State.settle u) ∧
      u = { f with writeBack := none, ports := u.ports, due := u.due } ∧
      u.due = ((List.finRange 16).filter (fun m => s.stage m = .heldWriteBack)).map Due.hand ∧
      ∀ m, (u.ports.get m).queue = (s.ports.get m).queue ∧
        ((s.stage m = .heldWriteBack → u.stage m = .taken .control) ∧
        (∀ a ids, s.front m = some a → s.stage m = .heldRecords ids → b.id ∈ ids →
          (ids.erase b.id ≠ [] → u.stage m = .heldRecords (ids.erase b.id)) ∧
          (ids.erase b.id = [] → u.stage m = .issued
            { hit := none, port := { number := m.val, dir := a.dir, addr := a.addr, be := a.be, data := a.data },
              treat := .plain, answer := none, clip := .absent, changed := [] })) ∧
        (s.stage m ≠ .heldWriteBack → (∀ ids, s.stage m = .heldRecords ids → b.id ∉ ids) → u.stage m = s.stage m)))

/-- R174: the oldest pending event is written to the record address of index P, 4 words with every byte enabled and the
part's number; nothing else changes until the memory answers. Answered OK, the write advances the producer index and lists
the status block; answered ERROR, the event is dropped and counted as lost, with no fault. -/
def Obligations.EventWritten : Prop :=
  ∀ (s : State) (e : Event) (rest : List Event), s.AtRest → s.events = e :: rest →
    (s.writeOut = none → s.eventInFlight = false →
      exec .eventWriteIssue s = .next (State.settle { s with eventInFlight := true }) ∧
      ({ s with eventInFlight := true } : State).eventAccess =
        [{ number := 16, dir := .write, be := List.replicate 4 0xF,
           addr := s.regionBase + BitVec.ofNat 32 (0x1400 + 16 * (s.producer.toNat % 64)),
           data := [BitVec.ofNat 32 (e.kind.code + 256 * e.object + 65536 * e.tag.toNat + 16777216 * e.reason), e.tick, 0,
             0] }]) ∧
    (s.eventInFlight = true →
      exec (.eventWriteAnswer true) s =
        .next (State.settle { s with
          events := rest, eventInFlight := false, producer := s.producer + 1,
          writeBackList := addListed .status [] s.writeBackList }) ∧
      exec (.eventWriteAnswer false) s =
        .next (State.settle { s with
          events := rest, eventInFlight := false, lostEvents := min (s.lostEvents + 1) 65535,
          writeBackList := if s.lostEvents < 65535 then addListed .status [] s.writeBackList else s.writeBackList }))

/-- R176: the attention line follows the count of records that are not consumed. It rises when an event write is answered OK
at count 0, falls when a consumer write takes P, and neither a pending event, a dropped one nor a fault moves it. -/
def Obligations.AttentionFollowsCount : Prop :=
  ∀ s : State,
    (s.attention = true ↔ 0 < (s.producer - s.consumer).toNat) ∧
    (s.AtRest → s.eventInFlight = true → ∃ t, exec (.eventWriteAnswer true) s = .next t ∧
      ((s.producer - s.consumer).toNat = 0 → s.attention = false ∧ t.attention = true)) ∧
    (∀ c : BitVec 7, (s.setConsumer c).attention = decide (c ≠ s.producer)) ∧
    (∀ k o tag r, (s.raiseEvent k o tag r).attention = s.attention) ∧ s.loseEvent.attention = s.attention ∧
    (∀ k n a w, (s.raiseFault k n a w).attention = s.attention) ∧
    (∀ (f g : FaultRecord) (n n' : Nat) (mask : BitVec 14), ({ s with
      accessFault := f, memoryFault := g, lostFaults := n, lostEvents := n',
      request := { s.request with eventMask := mask } } : State).attention = s.attention)

/-! ## The system port and the Window Classifier -/

/-- R25, R27, R40 (logs 6, 7): at a state with nothing left to settle, a presented access joins its master's queue when the port
is open, nothing waits before it and the queue has a place, and in an empty queue it is due to be taken at this moment;
otherwise ready is withheld and it waits at the port. The port is closed while the reset is low, while an access that has come
into service is still to be handed on, and while a master's request waits for a place in the translation queue. -/
def Obligations.AccessRequested : Prop :=
  ∀ (s : State) (a : Access), s.AtRest → s.settle = s → a.wellFormed = true →
    let p := s.ports.get a.master
    (s.portWaiting = [] → s.portOpen = true → p.queue.length < 4 →
      exec (.accessRequest a) s = .next { s with
        ports := setAt s.ports a.master { p with queue := p.queue ++ [a] }
        due := if p.queue = [] then [.take a.master] else [] }) ∧
    (s.portWaiting ≠ [] ∨ s.portOpen = false ∨ 4 ≤ p.queue.length →
      exec (.accessRequest a) s = .next { s with portWaiting := s.portWaiting ++ [a] }) ∧
    (∀ u : State, u.portOpen = true ↔ u.resetLow = false ∧ u.due = [] ∧ ∀ r ∈ u.translationWaits, r.own = true)

/-- R18, R2, R153: the class of an address. The control region comes first, then the lowest-numbered enabled window that
covers it, with the frame index and word offset that R2 gives, then unwindowed. -/
def Obligations.AddressClassified : Prop :=
  ∀ (s : State) (a : Addr), s.WindowSound →
    let inRegion := s.baseStraps.toNat * 2 ^ 24 ≤ a.toNat ∧ a.toNat < s.baseStraps.toNat * 2 ^ 24 + 16384
    let covers (w : Fin 16) := (s.windows.get w).enable = true ∧ (s.windows.get w).base.toNat ≤ a.toNat ∧
      a.toNat < (s.windows.get w).base.toNat + 1024 * 2 ^ (s.windows.get w).size
    (s.classify a = .control ↔ inRegion) ∧
    ((∀ w, (s.windows.get w).enable = true → (s.windows.get w).role ≠ none) →
      (s.classify a = .unwindowed ↔ ¬inRegion ∧ ∀ w, ¬covers w)) ∧
    (∀ hit, s.classify a = .window hit →
      ¬inRegion ∧ covers hit.window ∧ (∀ w, w < hit.window → ¬covers w) ∧
      (s.windows.get hit.window).role = some hit.role ∧ (s.windows.get hit.window).service = hit.service ∧
      hit.offset < 256 ∧ hit.frame < 2 ^ (s.windows.get hit.window).size ∧
      a.toNat = (s.windows.get hit.window).base.toNat + 1024 * hit.frame + 4 * hit.offset + a.toNat % 4)

/-- R18, R20, R21, R22, R23, R26: the oldest access of a master is taken, when its taking is due. `n` is the state after the
notices of R18 (NoticesGiven). The burst-boundary check comes first, and the second part says when it refuses and which
window its fault names; a control-region access is held while the image write-out runs; a sample-window access of an OFFLINE
segment is dropped and counted without a fault; a partial word raises PARTIAL and drops a write, but an UPLINK write, whose
role check comes first, goes on to its block; every other access is to be handed on before anything else happens (the mark of
log 5). That BOUNDARY and PARTIAL name the first word's address, and PARTIAL the access's window, is log 12's reading. -/
def Obligations.AccessTaken : Prop :=
  (∀ (s : State) (m : Fin 16) (a : Access), s.NextDue (.take m) → s.resetLow = false → s.front m = some a →
    s.stage m = .waiting →
    let s0 : State := { s with due := s.due.tail }
    let n := s0.notices m a
    let cls := s.classify a.addr
    let take (t : State) : Prop := exec (.accessTakenForService m) s = .next t.settle
    let handedOn (t : State) : State := { t.setStage m (.taken cls) with due := .hand m :: t.due }
    (∀ w, boundaryFault cls (s.classify (lastAddr a)) = some w →
      take ((n.raiseFault .boundary m.val a.addr w).respondDropped m a)) ∧
    (boundaryFault cls (s.classify (lastAddr a)) = none →
      (cls = .control → take (if s.writeOut.isSome then n.setStage m .heldWriteOut else handedOn n)) ∧
      (cls = .unwindowed → take (handedOn n)) ∧
      (∀ hit, cls = .window hit →
        (∀ g, segOf m = some g → (s.segments.get g).state = .offline →
          let e := s.segments.get g
          take (((n.setSegment g { e with offlineAccesses := min (e.offlineAccesses + 1) 65535 }).listIf
            (e.offlineAccesses < 65535) (.segment g)).respondDropped m a)) ∧
        ((∀ g, segOf m = some g → (s.segments.get g).state ≠ .offline) →
          (hasPartial a = false ∨ (a.dir = .write ∧ hit.role = .uplink) → take (handedOn n)) ∧
          (hasPartial a = true → a.dir = .read →
            take (handedOn (n.raiseFault .partialWord m.val a.addr (some hit.window)))) ∧
          (hasPartial a = true → a.dir = .write → hit.role ≠ .uplink →
            take ((n.raiseFault .partialWord m.val a.addr (some hit.window)).respondDropped m a)))))) ∧
  (∀ first last : Cls,
    (boundaryFault first last = none ↔
      (first = .control ∧ last = .control) ∨ (first = .unwindowed ∧ last = .unwindowed) ∨
      ∃ h h', first = .window h ∧ last = .window h' ∧ h.window = h'.window ∧ h.frame = h'.frame) ∧
    (∀ w, boundaryFault first last = some w →
      (∀ h, first = .window h → w = some h.window) ∧
      ((∀ h, first ≠ .window h) → ∀ h, last = .window h → w = some h.window) ∧
      ((∀ h, first ≠ .window h) → (∀ h, last ≠ .window h) → w = none)))

/-- R18, R99, R101, R43, R44: the notices given when an access is classified. An access of an ACTIVE segment restarts its
activity timer, one of a STALLED segment makes it ACTIVE again with SEGMENT_RESUMED; a write is snooped over its whole range.
The snoop of any write of `n` words: where it overlaps a map region of an enabled or retiring window, cache entries whose map
entry address it overlaps go, hazards held by it come, and a fetch in flight for one of those addresses is marked for
discard. That the status block, for a SEGMENT_RESUMED that is lost, is listed before the segment entry is the model's choice
(log 42). -/
def Obligations.NoticesGiven : Prop :=
  (∀ (s : State) (m : Fin 16) (a : Access),
    (segOf m = none → s.noticeAccess m = s) ∧
    (∀ g, segOf m = some g → m.val = g.val + 1 ∧
      let e := s.segments.get g
      let timer := if e.stallTimeout = 0 then none else some (s.timebase + 1000 * e.stallTimeout)
      (e.state = .offline ∨ e.state = .excluded → s.noticeAccess m = s) ∧
      (e.state = .active → s.noticeAccess m = s.setSegment g { e with timer := timer }) ∧
      (e.state = .stalled → s.noticeAccess m =
        ((s.setSegment g { e with state := .active, timer := timer }).raiseEvent .segmentResumed (g.val + 1) 0 0).list
          (.segment g))) ∧
    (a.dir = .read → s.notices m a = s.noticeAccess m) ∧
    (a.dir = .write → s.notices m a = (s.noticeAccess m).snoop (.master m) a.addr a.len)) ∧
  ∀ (s : State) (src : HazardSource) (addr : Addr) (n : Nat),
    let t := s.snoop src addr n
    let word (i : Nat) : Addr := addr + BitVec.ofNat 32 (4 * i)
    let overlaps (x : Addr) : Prop := (∃ i < n, x = word i) ∧ ∃ w, (s.windows.get w).mapRegionHolds x = true
    t = { s with cache := t.cache, hazards := t.hazards, fetch := t.fetch } ∧
    (∀ c, c ∈ t.cache ↔ c ∈ s.cache ∧ ((∃ x, overlaps x) → ∀ i < n, s.cacheAddr c ≠ word i)) ∧
    (∀ h, h ∈ t.hazards ↔ h ∈ s.hazards ∨ (h.source = src ∧ overlaps h.addr)) ∧
    t.fetch.isSome = s.fetch.isSome ∧
    (∀ f, t.fetch = some f → ∃ f', s.fetch = some f' ∧ f.request = f'.request ∧
      (f.discard = true ↔ f'.discard = true ∨ overlaps f'.request.mapAddr)) ∧
    (∀ (e : WindowEntry) (x : Addr), e.mapRegionHolds x = true ↔ (e.enable = true ∨ e.retiring = true) ∧
      e.translation.1 = true ∧ (x - (e.translation.2 &&& 0xFFFFFFFC#32)).toNat < 4 * 2 ^ e.size)

/-! ## Traffic through the Frame Translator -/

/-- R18, R16: an unwindowed access passes to the memory port unchanged, with its own master number, address, byte
enables and data. The commands that send a sample-window access to memory with its data unchanged ask for its
translation first (R34 to R40): a write of a DOWNLINK or PROGRAM window (R82, R136), a read of one by a master outside 1
to 12, and a read of an UPLINK frame that no slot holds (R74). That a request that misses while others wait goes behind
them, even where a place is free, is the model's choice (log 46). -/
def Obligations.UnchangedTrafficPasses : Prop :=
  (∀ (s : State) (m : Fin 16) (a : Access), s.Turn m a .unwindowed →
    exec (.unwindowedAccess m) s = .next (State.settle (({ s with due := s.due.tail } : State).setStage m (.issued
      { hit := none, port := { number := m.val, dir := a.dir, addr := a.addr, be := a.be, data := a.data },
        treat := .plain, answer := none, clip := .absent, changed := [] })))) ∧
  (∀ (s : State) (m : Fin 16) (a : Access) (hit : WinHit) (c : Instr), s.Turn m a (.window hit) →
    (c = .downlinkWrite m ∧ hit.role = .downlink ∧ a.dir = .write) ∨
      (c = .programWrite m ∧ hit.role = .program ∧ a.dir = .write) ∨
      (c = .downlinkRead m ∧ hit.role = .downlink ∧ a.dir = .read ∧ segOf m = none) ∨
      (c = .programRead m ∧ hit.role = .program ∧ a.dir = .read ∧ segOf m = none) ∨
      (c = .uplinkRead m ∧ hit.role = .uplink ∧ a.dir = .read ∧ s.slotOf hit.window hit.frame = none) →
    let s0 : State := { s with due := s.due.tail }
    let t := (s.windows.get hit.window).translation
    let sent (u : State) (phys : Addr) : State :=
      let addr := phys + BitVec.ofNat 32 (4 * hit.offset)
      (if a.dir = .write then u.snoop (.master m) addr a.len else u).setStage m (.issued
        { hit := some hit, port := { number := m.val, dir := a.dir, addr := addr, be := a.be, data := a.data },
          treat := .plain, answer := none, clip := .absent, changed := [] })
    let frame := (t.2 &&& 0xFFFFFC00#32) + BitVec.ofNat 32 (1024 * hit.frame)
    let entry := (t.2 &&& 0xFFFFFFFC#32) + BitVec.ofNat 32 (4 * hit.frame)
    let ends (u : State) : Prop := exec c s = .next u.settle
    (t.1 = false → s.inRegion frame = false → ends (sent s0 frame)) ∧
    (t.1 = false → s.inRegion frame = true →
      ends ((s0.raiseFault .unmapped m.val a.addr (some hit.window)).respondDropped m a)) ∧
    (t.1 = true → s.inRegion entry = true →
      ends ((s0.raiseFault .unmapped m.val entry (some hit.window)).respondDropped m a)) ∧
    (t.1 = true → s.inRegion entry = false →
      (∀ x, s.cached hit.window hit.frame = some x →
        ends (sent { s0 with cache := x :: s.cache.filter (fun y => y != x) } x.phys)) ∧
      (s.cached hit.window hit.frame = none →
        let r : TransReq :=
          { owner := .master m, window := hit.window, frame := hit.frame, mapAddr := entry, own := false }
        (s.translationWaits = [] ∧ s.translations.length < 8 →
          ends (({ s0 with translations := s.translations ++ [r] } : State).setStage m (.translating hit .plain false))) ∧
        (s.translationWaits ≠ [] ∨ 8 ≤ s.translations.length →
          ends (({ s0 with translationWaits := s.translationWaits ++ [r] } : State).setStage m
            (.translating hit .plain false))))))

/-- R34 to R37, R40, R45, R16, R43, R87, R88, R134: an access of a sample window asks for its translation and goes on as
it is answered: its own window's, or, for a talkthrough read, the source's, as a request of the part's own. Given, the
access goes to memory by its treatment: a write is snooped at its translated address; a talkthrough read is an underrun
if a slot now holds the source frame, else a read of the part's own with every byte on; a mixed read has its clip read
beside it, or CLIP_ERROR where the clip frame lies in the control region, naming the address that the clip read would
have had (log 28). An UPLINK read released from a slot (`own`) carries the number 16 and its master's byte enables (log
40). That a request that misses while others wait goes behind them, even where a place is free, is the model's choice
(log 46). -/
def Obligations.ReadsSentThrough : Prop :=
  (∀ (s : State) (m : Fin 16) (a : Access) (hit : WinHit) (t : Treatment) (own : Bool),
    let w : Fin 16 := match t with | .talkthrough _ _ x _ => x | _ => hit.window
    let f : Nat := match t with | .talkthrough _ _ _ u => u | _ => hit.frame
    let parts : Bool := match t with | .talkthrough _ _ _ _ => true | _ => false
    let tr := (s.windows.get w).translation
    let frame := (tr.2 &&& 0xFFFFFC00#32) + BitVec.ofNat 32 (1024 * f)
    let entry := (tr.2 &&& 0xFFFFFFFC#32) + BitVec.ofNat 32 (4 * f)
    let ends (u : State) : Prop := s.sendThrough m a hit t own = u
    let refused (addr : Addr) : State := (s.raiseFault .unmapped m.val addr (some w)).respond m true
      (if a.dir = .read then List.replicate a.len 0 else [])
    (tr.1 = false → s.inRegion frame = false → ends (s.deliver m a hit t own frame)) ∧
    (tr.1 = false → s.inRegion frame = true → ends (refused a.addr)) ∧
    (tr.1 = true → s.inRegion entry = true → ends (refused entry)) ∧
    (tr.1 = true → s.inRegion entry = false →
      (∀ x, s.cached w f = some x →
        ends (State.deliver { s with cache := x :: s.cache.filter (fun y => y != x) } m a hit t own x.phys)) ∧
      (s.cached w f = none →
        let r : TransReq := { owner := .master m, window := w, frame := f, mapAddr := entry, own := parts }
        (s.translationWaits = [] ∧ s.translations.length < 8 →
          ends (({ s with translations := s.translations ++ [r] } : State).setStage m (.translating hit t own))) ∧
        (s.translationWaits ≠ [] ∨ 8 ≤ s.translations.length →
          ends (({ s with translationWaits := s.translationWaits ++ [r] } : State).setStage m
            (.translating hit t own)))))) ∧
  (∀ (s : State) (m : Fin 16) (a : Access) (hit : WinHit) (own : Bool) (phys : Addr),
    let addr := phys + BitVec.ofNat 32 (4 * hit.offset)
    let own16 (x : Addr) : MemAccess :=
      { number := 16, dir := .read, addr := x, be := List.replicate a.len 0xF, data := [] }
    let at4 : MemAccess :=
      { number := if own then 16 else m.val, dir := a.dir, addr := addr, be := a.be, data := a.data }
    let issued (u : State) (t : Treatment) (port : MemAccess) (clip : ClipRead) : State := u.setStage m
      (.issued { hit := some hit, port := port, treat := t, answer := none, clip := clip, changed := [] })
    s.deliver m a hit .plain own phys =
      issued (if a.dir = .write then s.snoop (.master m) addr a.len else s) .plain at4 .absent ∧
    (∀ g, s.deliver m a hit (.equalise g) own phys = issued s (.equalise g) at4 .absent) ∧
    (∀ g d w u,
      let e := s.services.get d
      let isHeld : Prop :=
        ∃ n, (s.slots.get n).state ≠ .free ∧ (s.slots.get n).window = w ∧ (s.slots.get n).frame = u
      (isHeld → s.deliver m a hit (.talkthrough g d w u) own phys =
        ((s.setService d { e with underruns := min (e.underruns + 1) 65535 }).listIf (e.underruns < 65535)
          (.service d)).respond m true (List.replicate a.len 0)) ∧
      (¬isHeld → s.deliver m a hit (.talkthrough g d w u) own phys =
        issued s (.talkthrough g d w u) (own16 addr) .absent)) ∧
    (∀ v,
      let at16 (c : Addr) : Addr := c + BitVec.ofNat 32 (4 * hit.offset)
      (v.clip = none → s.deliver m a hit (.mix v) own phys = issued s (.mix v) at4 .absent) ∧
      (∀ c, v.clip = some c → s.inRegion c = true → s.deliver m a hit (.mix v) own phys =
        issued (s.raiseFault .clipError 16 (at16 c) (some hit.window)) (.mix v) at4 .absent) ∧
      (∀ c, v.clip = some c → s.inRegion c = false → s.deliver m a hit (.mix v) own phys =
        issued s (.mix v) at4 (.issued (own16 (at16 c))))))

/-- R40, R41: while the translation queue has a place, the request that has waited longest joins it. With no fetch in flight,
a map fetch is issued for the oldest request in the queue whose map entry address is not under a snoop hazard: one word, all
byte enables on, the part's number, at the map entry address. -/
def Obligations.TranslationQueueServed : Prop :=
  (∀ (s : State) (r : TransReq) (rest : List TransReq), s.AtRest → s.translationWaits = r :: rest →
    s.translations.length < 8 →
    exec .translationQueueJoin s =
      .next (State.settle { s with translations := s.translations ++ [r], translationWaits := rest })) ∧
  (∀ (s : State) (before after : List TransReq) (r : TransReq), s.AtRest → s.fetch = none →
    s.translations = before ++ r :: after → (∀ x ∈ before, ∃ h ∈ s.hazards, h.addr = x.mapAddr) →
    (∀ h ∈ s.hazards, h.addr ≠ r.mapAddr) →
    let u : State := { s with fetch := some { request := r, discard := false } }
    exec .mapFetchIssue s = .next u.settle ∧
      u.fetchAccess = [{ number := 16, dir := .read, addr := r.mapAddr, be := [0xF], data := [] }])

/-- R42, R44, R45, R38, R39: a map fetch completes. A marked one is dropped and its group waits on; a valid entry is cached as
the most recently used and answers the group; ERROR raises one MAP_ERROR and an invalid entry one UNMAPPED, with the
request's master, the map entry address and the window, and refuses the group. The group leaves the queue. That the fault comes
before the effects of the refusals is the model's choice (log 45). FlushStarts says what a refused flush does. -/
def Obligations.MapFetchCompleted : Prop :=
  (∀ (s : State) (f : MapFetch) (ok : Bool) (entry : Word), s.AtRest → s.fetch = some f →
    let r := f.request
    let inGroup (x : TransReq) : Bool := x.window == r.window && x.frame == r.frame
    let group := s.translations.filter inGroup
    let rest : State := { s with fetch := none, translations := s.translations.filter (fun x => !inGroup x) }
    let master := match r.owner with | .master m => m.val | .flush _ => 16
    let phys := entry &&& 0xFFFFFC00#32
    let valid := entry.getLsbD 0 = true ∧ s.inRegion phys = false
    let ends (u : State) : Prop := exec (.mapFetchComplete ok entry) s = .next u.settle
    (f.discard = true → ends { s with fetch := none }) ∧
    (f.discard = false → ok = false →
      ends (group.foldl State.refuseRequest (rest.raiseFault .mapError master r.mapAddr (some r.window)))) ∧
    (f.discard = false → ok = true → ¬valid →
      ends (group.foldl State.refuseRequest (rest.raiseFault .unmapped master r.mapAddr (some r.window)))) ∧
    (f.discard = false → ok = true → valid →
      ends (group.foldl (State.giveRequest phys) { rest with
        cache := ({ window := r.window, frame := r.frame, phys := phys } ::
          s.cache.filter (fun x => !(x.window == r.window && x.frame == r.frame))).take 8 }))) ∧
  (∀ (s : State) (r : TransReq) (m : Fin 16) (a : Access) (hit : WinHit) (t : Treatment) (own : Bool) (phys : Addr),
    r.owner = .master m → s.front m = some a → s.stage m = .translating hit t own →
      State.giveRequest phys s r = s.deliver m a hit t own phys ∧ State.refuseRequest s r = s.respondDropped m a) ∧
  (∀ (s : State) (r : TransReq) (n : Fin 16) (phys : Addr), r.owner = .flush n →
    State.giveRequest phys s r = s.issueBursts n phys ∧ State.refuseRequest s r = s.flushRefused n)

/-! ## The memory's answers to masters' accesses -/

/-- R17, R25, R84, R14: the answer to an access that passed to memory unchanged or equalised. The response is given, with the
data of a read, each lane of an equalised one scaled, clamped and its disabled bytes 0; an ERROR records READ_ERROR or
WRITE_ERROR with the master, the first-word address and the window, and an equalised read then returns zeros. A plain read
answered ERROR carries the memory's data (log 13). The access leaves its queue, its snoop hazards end, and the taking of the
next access of the master, if there is one, is due at this moment (log 6). -/
def Obligations.MemoryAccessAnswered : Prop :=
  (∀ (s : State) (m : Fin 16) (a : Access) (i : Issue) (r : Answer), s.AtMemory m a i → answerFits a r = true →
    let window := i.hit.map (·.window)
    let f := s.raiseFault (if a.dir = .read then .readError else .writeError) m.val a.addr window
    (i.treat = .plain →
      exec (.memoryAccessAnswer m r) s =
        .next (State.settle ((if r.ok then s else f).respond m r.ok (if a.dir = .read then r.data else [])))) ∧
    (∀ g, i.treat = .equalise g →
      exec (.memoryAccessAnswer m r) s =
        .next (State.settle (if r.ok then
            s.respond m true (List.zipWith maskWord a.be (r.data.map fun w =>
              wordOf (clampLane (scale (laneLo w) g)) (clampLane (scale (laneHi w) g))))
          else f.respond m false (List.replicate a.len 0))))) ∧
  (∀ (s : State) (m : Fin 16) (ok : Bool) (data : List Word),
    s.respond m ok data = { s with
      responses := s.responses ++ [{ master := m, ok := ok, data := data }]
      ports := setAt s.ports m { queue := (s.ports.get m).queue.tail, stage := .waiting }
      hazards := s.hazards.filter (fun h => h.source != .master m)
      due := s.due ++ if (s.ports.get m).queue.tail = [] then [] else [.take m] })

/-- R135, R133, R12, R17, R88, R14: a mixed read is answered when its programme read and its clip read both have been. A
failed clip read records CLIP_ERROR with master 16, its own address and the programme window, and counts as C = 0; a failed
programme read answers ERROR with zeros and records READ_ERROR. After the answer to a talkthrough source read the segment is
always answered OK: with the equalised data, its disabled bytes 0, or, after an ERROR, with zeros and READ_ERROR naming its
master, the physical address and the source window. -/
def Obligations.TransformedReadsAnswered : Prop :=
  (∀ (s : State) (m : Fin 16) (a : Access) (i : Issue) (v : MixValues) (r : Answer),
    s.AtMemory m a i → i.treat = .mix v → a.dir = .read → answerFits a r = true →
    let window := i.hit.map (·.window)
    let mixed (prog clip : List Word) : List Word :=
      List.zipWith maskWord a.be (List.zipWith (fun p c => mixWord p c v.gd v.gi) prog clip)
    let zero : List Word := List.replicate a.len 0
    let f := if r.ok then s else s.raiseFault .readError m.val a.addr window
    (i.answer = none → exec (.memoryAccessAnswer m r) s = .next (State.settle (match i.clip with
      | .issued _ => f.setStage m (.issued { i with answer := some r })
      | .absent => f.respond m r.ok (if r.ok then mixed r.data zero else zero)
      | .answered d => f.respond m r.ok (if r.ok then mixed r.data d else zero)))) ∧
    (∀ port, i.clip = .issued port →
      let g := if r.ok then s else s.raiseFault .clipError 16 port.addr window
      let clip := if r.ok then r.data else zero
      exec (.clipReadAnswer m r) s = .next (State.settle (match i.answer with
        | none => g.setStage m (.issued { i with clip := if r.ok then .answered r.data else .absent })
        | some p => g.respond m p.ok (if p.ok then mixed p.data clip else zero))))) ∧
  (∀ (s : State) (m : Fin 16) (a : Access) (i : Issue) (r : Answer) (gain : Nat) (down : Fin 8) (source : Fin 16)
    (frame : Nat),
    s.AtMemory m a i → i.treat = .talkthrough gain down source frame → a.dir = .read → answerFits a r = true →
    (r.ok = true → exec (.talkthroughSourceAnswer m r) s =
      .next (State.settle (s.respond m true (List.zipWith maskWord a.be (r.data.map (equaliseWord gain)))))) ∧
    (r.ok = false → exec (.talkthroughSourceAnswer m r) s =
      .next (State.settle ((s.raiseFault .readError m.val i.port.addr (some source)).respond m true
        (List.replicate a.len 0)))))

/-! ## Uplink traffic -/

/-- R22, R23, R62, R58, R51, R55, R63: the UPLINK writes that no slot takes up. ROLE comes first, then PARTIAL, which breaks
the contribution that it belongs to; then an EXCLUDED segment's write, one to a frame being flushed and one at or behind the
horizon are dropped and counted late; one to a frame with a pending allocation joins its list. Dropped writes are answered
OK. That ROLE and PARTIAL name the first word's address and the access's window is log 12's reading. That the fault, with its
record, its listing and its event, comes before the broken contribution, its listing and the check for completion is the
model's choice (log 45). -/
def Obligations.UplinkWriteDropped : Prop :=
  ∀ (s : State) (m : Fin 16) (a : Access) (hit : WinHit),
    s.Turn m a (.window hit) → hit.role = .uplink → a.dir = .write →
    let s0 : State := { s with due := s.due.tail }
    let ends (u : State) : Prop := exec (.uplinkWrite m) s = .next u.settle
    let fault (k : FaultKind) : State := (s0.raiseFault k m.val a.addr (some hit.window)).respond m true []
    let carries (g : Fin 12) : Prop := (s.segments.get g).uplinkServices.getLsbD hit.service.val = true
    ((∀ g, segOf m = some g → ¬carries g) → ends (fault .role)) ∧
    (∀ g, segOf m = some g → carries g →
      let e := s.segments.get g
      let late := ((s0.setSegment g { e with lateWrites := min (e.lateWrites + 1) 65535 }).listIf
        (e.lateWrites < 65535) (.segment g)).respond m true []
      (hasPartial a = true →
        (s.slotOf hit.window hit.frame = none → ends (fault .partialWord)) ∧
        (∀ n, s.slotOf hit.window hit.frame = some n →
          let t := s.slots.get n
          let c := t.contribs.get g
          if t.state = .filling ∧ g ∈ t.expected ∧ (c.state = .none ∨ c.state = .filling) then
            ends ((((fault .partialWord).setSlot n { t with
              contribs := setAt t.contribs g { c with state := .broken }
              expected := t.expected.filter (fun x => x != g) }).list (.slot n)).checkComplete n)
          else ends (fault .partialWord))) ∧
      (hasPartial a = false →
        (e.state = .excluded → ends late) ∧
        (e.state ≠ .excluded → ∀ n, s.slotOf hit.window hit.frame = some n → (s.slots.get n).state = .flushing →
          ends late) ∧
        (e.state ≠ .excluded → s.slotOf hit.window hit.frame = none →
          (∀ p, s.allocOf hit.window hit.frame = some p →
            ends (({ s0 with allocs := s.allocs.map fun q =>
              if q = p then { q with writers := q.writers ++ [m] } else q } : State).setStage m (.heldPending hit))) ∧
          (s.allocOf hit.window hit.frame = none → ∀ h, (s.windows.get hit.window).horizon = some h →
            let frames := 2 ^ (s.windows.get hit.window).size
            let d := (hit.frame + frames - h % frames) % frames
            (d = 0 ∨ frames / 2 ≤ d) → ends late))))

/-- R58 (row 2), R59, R60, R61: a burst of a carried service is judged as a contribution to the FILLING slot of its frame:
dropped for sequence, dropped as late, dropped and breaking its contribution, or accepted, which adds its scaled lanes, its
power and its length; a contribution that becomes DONE updates its gate. The burst is answered OK, and the slot is checked
for completion when a contribution became DONE or BROKEN, or when the slot has just been allocated. That a contribution lists
the slot's record before the segment entry is the model's choice (log 42). -/
def Obligations.UplinkBurstJudged : Prop :=
  (∀ (s : State) (m : Fin 16) (a : Access) (hit : WinHit) (g : Fin 12) (n : Fin 16),
    s.Turn m a (.window hit) → hit.role = .uplink → a.dir = .write → segOf m = some g →
    (s.segments.get g).uplinkServices.getLsbD hit.service.val = true → hasPartial a = false →
    (s.segments.get g).state ≠ .excluded → s.slotOf hit.window hit.frame = some n → (s.slots.get n).state = .filling →
    exec (.uplinkWrite m) s =
      .next (State.settle (({ s with due := s.due.tail } : State).joinSlot n m g a hit.offset false))) ∧
  (∀ (s : State) (n m : Fin 16) (g : Fin 12) (a : Access) (o : Nat) (fresh : Bool),
    a.dir = .write → a.wellFormed = true →
    let t := s.slots.get n
    let c := t.contribs.get g
    let e := s.segments.get g
    let checkIf (b : Bool) (u : State) : State := if b then u.checkComplete n else u
    let sequence (u : State) : State := (u.setSegment g { e with sequenceErrors := min (e.sequenceErrors + 1) 65535 }).listIf
      (e.sequenceErrors < 65535) (.segment g)
    let late : State := (s.setSegment g { e with lateWrites := min (e.lateWrites + 1) 65535 }).listIf
      (e.lateWrites < 65535) (.segment g)
    let xs : List Lanes := List.zipWith operandLanes a.be a.data
    let gate := e.gates.get t.service
    let gain := if c.state = .none then e.uplinkGain else c.gain
    let gated := if c.state = .none then !gate.isOpen else c.gated
    let d : Contrib :=
      { state := if c.next + a.len < 256 then .filling else .done, next := c.next + a.len, gated := gated, gain := gain,
        power := c.power + (xs.map fun x => (x.lo * x.lo + x.hi * x.hi).toNat).sum }
    let taken : State := (s.setSlot n { t with
      acc := if gated then t.acc else addBurst t.acc o gain xs
      contribs := setAt t.contribs g d }).list (.slot n)
    let v := s.services.get t.service
    let gate' := gate.update (d.power / 65536) v.openThreshold v.closeThreshold v.holdFrames
    s.joinSlot n m g a o fresh =
      if c.state = .done ∨ c.state = .broken then checkIf fresh ((sequence s).respond m true [])
      else if g ∉ t.expected then checkIf fresh (late.respond m true [])
      else if o ≠ c.next then
        ((sequence ((s.setSlot n { t with
          contribs := setAt t.contribs g { c with state := .broken }
          expected := t.expected.filter (fun x => x != g) }).list (.slot n))).respond m true []).checkComplete n
      else if c.next + a.len < 256 then checkIf fresh (taken.respond m true [])
      else (((taken.setSegment g { e with gates := setAt e.gates t.service gate' }).listIf (gate' != gate)
        (.segment g)).respond m true []).checkComplete n)

/-- R51, R52, R53, R54: a write that finds a new frame. The horizon moves to it. With a FREE unclaimed slot the lowest one is
allocated and the write is judged as its first contribution; with none the write waits on a pending allocation, which claims
the FILLING slot nearest to its deadline and evicts it, or with no slot FILLING the lowest unclaimed FLUSHING one. By the
model's choice (log 42) the window entry is listed, for its horizon, before the slot's record, and an eviction lists the
service entry first. A store with no slot to claim, which no run reaches (log 27), is left out. -/
def Obligations.UplinkFrameAllocated : Prop :=
  ∀ (s : State) (m : Fin 16) (a : Access) (hit : WinHit) (g : Fin 12),
    s.Turn m a (.window hit) → hit.role = .uplink → a.dir = .write → segOf m = some g →
    (s.segments.get g).uplinkServices.getLsbD hit.service.val = true → hasPartial a = false →
    (s.segments.get g).state ≠ .excluded → s.slotOf hit.window hit.frame = none →
    s.allocOf hit.window hit.frame = none →
    let e := s.windows.get hit.window
    let frames := 2 ^ e.size
    (∀ h, e.horizon = some h →
      let d := (hit.frame + frames - h % frames) % frames
      1 ≤ d ∧ d ≤ frames / 2 - 1) →
    let s0 : State := { s with due := s.due.tail }
    let ends (u : State) : Prop := exec (.uplinkWrite m) s = .next u.settle
    let moved : State := (s0.setWindow hit.window { e with horizon := some hit.frame }).listIf
      (e.horizon != some hit.frame) (.window hit.window)
    let deadline := (s.services.get e.service).deadline
    let isFree (n : Fin 16) : Prop := (s.slots.get n).state = .free ∧ (s.slots.get n).claimed = false
    let left (n : Fin 16) : Nat := ((s.slots.get n).deadlineTick - s.now).toNat
    let waiting (n : Fin 16) : State := (({ moved with allocs := s.allocs ++
      [{ window := hit.window, frame := hit.frame, slot := n, writers := [m] }] } : State).setStage m
        (.heldPending hit)).setSlot n { s.slots.get n with claimed := true }
    (∀ n, isFree n → (∀ k, k < n → ¬isFree k) →
      ends (((moved.setSlot n
        { state := .filling, window := hit.window, frame := hit.frame, service := e.service, allocTick := s.now,
          deadlineTick := s.now + BitVec.ofNat 32 deadline,
          expected := (List.finRange 12).filter (fun x =>
            (s.segments.get x).state = .active ∧ (s.segments.get x).uplinkServices.getLsbD e.service.val = true),
          contribs := Vector.replicate 12 { state := .none, next := 0, gated := false, gain := 0, power := 0 },
          acc := List.replicate 256 { lo := 0, hi := 0 }, satCount := 0, outcome := .none, claimed := false,
          timer := some (s.timebase + deadline), held := [], flush := none }).list (.slot n)).joinSlot n m g a hit.offset
            true)) ∧
    ((∀ n, ¬isFree n) →
      (∀ n, (s.slots.get n).state = .filling →
        (∀ k, (s.slots.get k).state = .filling → left n < left k ∨ (left n = left k ∧ n ≤ k)) →
        let v := s.services.get (s.slots.get n).service
        ends (((((waiting n).setService (s.slots.get n).service { v with evictions := min (v.evictions + 1) 65535 }).listIf
          (v.evictions < 65535) (.service (s.slots.get n).service)).raiseEvent .slotEvicted n.val 0 0).startFlush n
            .evicted)) ∧
      ((∀ n, (s.slots.get n).state ≠ .filling) → ∀ n, (s.slots.get n).state = .flushing → (s.slots.get n).claimed = false →
        (∀ k, k < n → ¬((s.slots.get k).state = .flushing ∧ (s.slots.get k).claimed = false)) → ends (waiting n)))

/-- R69, R70: what a slot's becoming FLUSHING does: the saturation count and the outcome, the service's frame counter, the
event of a SHORT one, and, unless it is retired, the misses of its expected segments, of which those whose consecutive
misses rose are handed over. A segment entry of which a counter changes is listed. -/
def Obligations.SlotEntersFlushing : Prop :=
  ∀ (s : State) (n : Fin 16) (outcome : SlotOutcome), outcome ≠ .none →
    let t := s.slots.get n
    let v := s.services.get t.service
    let reason := match outcome with | .deadline => 1 | .evicted => 2 | .retired => 3 | _ => 0
    let missed (g : Fin 12) : Prop := g ∈ t.expected ∧ (t.contribs.get g).state ≠ .done
    let raised := if outcome = .complete then s else s.raiseEvent .slotShort n.val 0 reason
    let u := s.enterFlushing n outcome
    u = { s with
      slots := setAt s.slots n
        { t with
          state := .flushing
          outcome := outcome
          satCount := (t.acc.map fun x =>
            (if clampLane x.lo = x.lo then 0 else 1) + (if clampLane x.hi = x.hi then 0 else 1)).sum
          timer := none }
      services := setAt s.services t.service
        (if outcome = .complete then { v with complete := min (v.complete + 1) 65535 }
          else { v with short := min (v.short + 1) 65535 })
      segments := u.segments, handovers := u.handovers, events := u.events, lostEvents := u.lostEvents,
      writeBackList := u.writeBackList } ∧
    u.listed (.slot n) = true ∧ u.listed (.service t.service) = true ∧
    (∀ g, (s.segments.get g).consecutive ≤ 65535 → (s.segments.get g).total ≤ 65535 →
      u.segments.get g ≠ s.segments.get g → u.listed (.segment g) = true) ∧
    u.events = raised.events ∧ u.lostEvents = raised.lostEvents ∧
    (s.lostEvents < u.lostEvents → u.listed .status = true) ∧
    (outcome ≠ .complete → s.eventEnabled .slotShort = true → s.ringCount + s.events.length < 64 →
      u.events = s.events ++ [{ kind := .slotShort, object := n.val, tag := 0, reason := reason, tick := s.now }]) ∧
    (outcome = .retired → u.segments = s.segments ∧ u.handovers = s.handovers) ∧
    (outcome ≠ .retired → ∀ g,
      let e := s.segments.get g
      (g ∉ t.expected → u.segments.get g = e) ∧
      (g ∈ t.expected → ¬missed g → u.segments.get g = { e with consecutive := 0 }) ∧
      (missed g → t.expected.count g = 1 → u.segments.get g =
        { e with consecutive := min (e.consecutive + 1) 65535, total := min (e.total + 1) 65535 }) ∧
      (g ∈ u.handovers ↔ g ∈ s.handovers ∨ (missed g ∧ e.consecutive < 65535)))

/-- R66, R67, R46, R34, R71, R8, R43, R44: the deadline of a FILLING slot expires, at any tick at or after its own (the
model's choice, log 3); the completion check; and how a flush goes on once its slot is FLUSHING: with a DIRECT
translation its sixteen bursts are issued and each is snooped, carrying the clamped accumulators, or it is refused with
UNMAPPED; with a MAPPED one that missed it joins the translation queue as a request of the part's own. The snoop of a
burst marks a fetch in flight for a map entry under it. R45, R73: a refused flush counts one flush error and ends as a
flush does that memory has answered (FlushBurstAnswered): saturations and power recorded and the service listed, the
slot FREE, the reads held on it released, and a pending allocation that claimed it served. The model's choices: the
fault of a refused flush comes before its end (log 45), the service entry is listed before the slot's record (log 42),
and the held reads go on in the order in which they began to wait (log 14). That a request that misses while others wait
goes behind them, even where a place is free, is the model's choice (log 46). -/
def Obligations.FlushStarts : Prop :=
  (∀ (s : State) (n : Fin 16) (d : Nat), s.AtRest → (s.slots.get n).state = .filling →
    (s.slots.get n).timer = some d → d ≤ s.timebase →
    exec (.deadlineExpiry n) s = .next (State.settle (s.startFlush n .deadline))) ∧
  (∀ (s : State) (n : Fin 16),
    let complete := (s.slots.get n).state = .filling ∧
      ∀ g ∈ (s.slots.get n).expected, ((s.slots.get n).contribs.get g).state = .done
    (complete → s.checkComplete n = s.startFlush n .complete) ∧ (¬complete → s.checkComplete n = s)) ∧
  (∀ (s : State) (n : Fin 16) (outcome : SlotOutcome),
    let w := (s.slots.get n).window
    let f := (s.slots.get n).frame
    let tr := (s.windows.get w).translation
    let entered := s.enterFlushing n outcome
    let phys := (tr.2 &&& 0xFFFFFC00#32) + BitVec.ofNat 32 (1024 * f)
    let entry := (tr.2 &&& 0xFFFFFFFC#32) + BitVec.ofNat 32 (4 * f)
    (tr.1 = false → s.inRegion phys = false → s.startFlush n outcome = entered.issueBursts n phys) ∧
    (tr.1 = false → s.inRegion phys = true →
      s.startFlush n outcome = (entered.raiseFault .unmapped 16 phys (some w)).flushRefused n) ∧
    (tr.1 = true → s.inRegion entry = true →
      s.startFlush n outcome = (entered.raiseFault .unmapped 16 entry (some w)).flushRefused n) ∧
    (tr.1 = true → s.inRegion entry = false → ∀ x, s.cached w f = some x →
      s.startFlush n outcome =
        ({ entered with cache := x :: s.cache.filter (fun y => y != x) } : State).issueBursts n x.phys) ∧
    (tr.1 = true → s.inRegion entry = false → s.cached w f = none →
      let r : TransReq := { owner := .flush n, window := w, frame := f, mapAddr := entry, own := true }
      s.startFlush n outcome =
        if s.translationWaits = [] ∧ s.translations.length < 8 then
          { entered with translations := s.translations ++ [r] }
        else { entered with translationWaits := s.translationWaits ++ [r] })) ∧
  (∀ (s : State) (n : Fin 16) (phys : Addr),
    let t := s.slots.get n
    let u := s.issueBursts n phys
    u = { s with
      slots := setAt s.slots n { t with flush := some { phys := phys, left := List.finRange 16, failed := false } }
      cache := u.cache, hazards := u.hazards, fetch := u.fetch } ∧
    (∀ c, c ∈ u.cache ↔ c ∈ s.cache ∧ ∀ k : Fin 16,
      let word (i : Nat) : Addr := phys + BitVec.ofNat 32 (64 * k.val) + BitVec.ofNat 32 (4 * i)
      (∃ i < 16, ∃ w, (s.windows.get w).mapRegionHolds (word i) = true) → ∀ i < 16, s.cacheAddr c ≠ word i) ∧
    u.fetch.isSome = s.fetch.isSome ∧
    (∀ f, u.fetch = some f → ∃ f', s.fetch = some f' ∧ f.request = f'.request ∧
      (f.discard = true ↔ f'.discard = true ∨
        ((∃ i < 256, f'.request.mapAddr = phys + BitVec.ofNat 32 (4 * i)) ∧
          ∃ w, (s.windows.get w).mapRegionHolds f'.request.mapAddr = true))) ∧
    (∀ h, h ∈ u.hazards ↔ h ∈ s.hazards ∨ ∃ (k : Fin 16), ∃ i < 16, h.source = .flush n k ∧
      h.addr = phys + BitVec.ofNat 32 (64 * k.val) + BitVec.ofNat 32 (4 * i) ∧
      ∃ w, (s.windows.get w).mapRegionHolds h.addr = true) ∧
    (∀ k : Fin 16, ∃ p ∈ u.memoryPort, p.number = 16 ∧ p.dir = .write ∧
      p.addr = phys + BitVec.ofNat 32 (64 * k.val) ∧ p.be = List.replicate 16 0xF ∧
      ∀ i < 16, p.data[i]? = (t.acc[16 * k.val + i]?).map fun x => wordOf (clampLane x.lo) (clampLane x.hi))) ∧
  (∀ (s : State) (n : Fin 16),
    let t := s.slots.get n
    let v := s.services.get t.service
    let freed : State := t.held.foldl (State.releaseRead n) ((((s.setService t.service
      { v with
        flushErrors := min (v.flushErrors + 1) 65535
        saturated := min (v.saturated + t.satCount) 65535
        lastPower := (t.acc.map fun x =>
          (clampLane x.lo * clampLane x.lo + clampLane x.hi * clampLane x.hi).toNat).sum / 65536 }).list
      (.service t.service)).setSlot n { t with state := .free, claimed := false, held := [], flush := none }).list
      (.slot n))
    ((∀ p ∈ s.allocs, p.slot ≠ n) → s.flushRefused n = freed) ∧
    (∀ p, s.allocs.find? (fun q => q.slot == n) = some p →
      let rest : State := { freed with allocs := s.allocs.filter (fun q => q != p) }
      ((s.windows.get p.window).enable = false → s.flushRefused n = p.writers.foldl State.dropWaiting rest) ∧
      ((s.windows.get p.window).enable = true →
        let w := p.writers.foldl (State.contributeWaiting n) ((rest.setSlot n (s.freshSlot p.window p.frame)).list (.slot n))
        ((w.slots.get n).isComplete = false → s.flushRefused n = w) ∧
        ((w.slots.get n).isComplete = true → s.flushRefused n = w.startFlush n .complete))))

/-- R72, R73, R9, R55, R31, R59, R63, R81, R68: the memory answers a burst of a flush. The first ERROR records FLUSH_ERROR
with master 16, the burst's address and the slot's window, and counts one flush error. The last answer ends the flush:
saturations and power are recorded, the slot is FREE, the reads held on it go on in the order in which they began to wait
(log 14), and a pending allocation that claimed it is served, its slot going on to its own flush if it is complete at once
(FlushStarts), or, where its window retires, dropped as late: a write that waited on it is judged as a contribution, R59 to
R61, without a completion check of its own, or counts as a late write of its segment, listed, and is answered OK in both
cases. The answer of a burst from before a soft reset is dropped with no effect; while one with the same slot and number is
out, an answer is taken for it (the model's choice, log 25). The model's choices too: FLUSH_ERROR, with its record, its
listing and its event, comes before the flush-error count (log 45); the service entry is listed before the slot's record, and
the slot's record before the segment entry (log 42). -/
def Obligations.FlushBurstAnswered : Prop :=
  (∀ (s : State) (n k : Fin 16) (ok : Bool) (b : StaleBurst), s.AtRest →
    s.staleBursts.find? (fun x => x.slot == n && x.burst == k) = some b →
    exec (.flushBurstAnswer n k ok) s = .next (State.settle { s with staleBursts := s.staleBursts.erase b })) ∧
  (∀ (s : State) (n k : Fin 16) (ok : Bool) (f : Flush), s.AtRest →
    (∀ b ∈ s.staleBursts, ¬(b.slot = n ∧ b.burst = k)) → (s.slots.get n).flush = some f → k ∈ f.left →
    let ends (u : State) : Prop := exec (.flushBurstAnswer n k ok) s = .next u.settle
    let t := s.slots.get n
    let v := s.services.get t.service
    let s1 : State := { s with hazards := s.hazards.filter (fun h => h.source != .flush n k) }
    let s2 : State := if ok = false ∧ f.failed = false then
        ((s1.raiseFault .flushError 16 (f.phys + BitVec.ofNat 32 (64 * k.val)) (some t.window)).setService t.service
          { v with flushErrors := min (v.flushErrors + 1) 65535 }).listIf (v.flushErrors < 65535) (.service t.service)
      else s1
    let left := f.left.filter (fun x => x != k)
    (left ≠ [] → ends (s2.setSlot n { t with flush := some { f with left := left, failed := f.failed || !ok } })) ∧
    (left = [] →
      let v2 := s2.services.get t.service
      let freed : State := t.held.foldl (State.releaseRead n) (((((s2.setService t.service
        { v2 with
          saturated := min (v2.saturated + t.satCount) 65535
          lastPower := (t.acc.map fun x =>
            (clampLane x.lo * clampLane x.lo + clampLane x.hi * clampLane x.hi).toNat).sum / 65536 }).list
        (.service t.service)).setSlot n { t with state := .free, claimed := false, held := [], flush := none }).list
        (.slot n)))
      ((∀ p ∈ s.allocs, p.slot ≠ n) → ends freed) ∧
      (∀ p, s.allocs.find? (fun q => q.slot == n) = some p →
        let rest : State := { freed with allocs := s.allocs.filter (fun q => q != p) }
        ((s.windows.get p.window).enable = false → ends (p.writers.foldl State.dropWaiting rest)) ∧
        ((s.windows.get p.window).enable = true →
          let w := p.writers.foldl (State.contributeWaiting n) ((rest.setSlot n (s.freshSlot p.window p.frame)).list (.slot n))
          ((w.slots.get n).isComplete = false → ends w) ∧
          ((w.slots.get n).isComplete = true → ends (w.startFlush n .complete)))))) ∧
  ∀ (s : State) (n m : Fin 16) (g : Fin 12) (a : Access) (hit : WinHit),
    s.front m = some a → s.stage m = .heldPending hit → segOf m = some g → a.dir = .write → a.wellFormed = true →
    let t := s.slots.get n
    let c := t.contribs.get g
    let e := s.segments.get g
    let sequence (u : State) : State := (u.setSegment g { e with sequenceErrors := min (e.sequenceErrors + 1) 65535 }).listIf
      (e.sequenceErrors < 65535) (.segment g)
    let late : State := (s.setSegment g { e with lateWrites := min (e.lateWrites + 1) 65535 }).listIf
      (e.lateWrites < 65535) (.segment g)
    let xs : List Lanes := List.zipWith operandLanes a.be a.data
    let gate := e.gates.get t.service
    let gain := if c.state = .none then e.uplinkGain else c.gain
    let gated := if c.state = .none then !gate.isOpen else c.gated
    let d : Contrib :=
      { state := if c.next + a.len < 256 then .filling else .done, next := c.next + a.len, gated := gated, gain := gain,
        power := c.power + (xs.map fun x => (x.lo * x.lo + x.hi * x.hi).toNat).sum }
    let taken : State := (s.setSlot n { t with
      acc := if gated then t.acc else addBurst t.acc hit.offset gain xs
      contribs := setAt t.contribs g d }).list (.slot n)
    let v := s.services.get t.service
    let gate' := gate.update (d.power / 65536) v.openThreshold v.closeThreshold v.holdFrames
    s.dropWaiting m = late.respond m true [] ∧
    State.contributeWaiting n s m = State.respond
      (if c.state = .done ∨ c.state = .broken then sequence s
      else if g ∉ t.expected then late
      else if hit.offset ≠ c.next then
        sequence ((s.setSlot n { t with
          contribs := setAt t.contribs g { c with state := .broken }
          expected := t.expected.filter (fun x => x != g) }).list (.slot n))
      else if c.next + a.len < 256 then taken
      else (taken.setSegment g { e with gates := setAt e.gates t.service gate' }).listIf (gate' != gate) (.segment g))
      m true []

/-- R76: an UPLINK read of a frame that a slot holds, under the read policy THROUGH, is answered OK at once from the
accumulators and does not go to memory. The model's: the list of responses and the reading of the memory port (log 11), and
that the taking of the master's next access comes due (log 6). -/
def Obligations.ThroughReadServed : Prop :=
  ∀ (s : State) (m : Fin 16) (a : Access) (hit : WinHit) (n : Fin 16),
    s.Turn m a (.window hit) → hit.role = .uplink → a.dir = .read → s.slotOf hit.window hit.frame = some n →
    (s.services.get hit.service).through = true →
    let acc := (s.slots.get n).acc
    ∃ (data : List Word) (u : State), exec (.uplinkRead m) s = .next u.settle ∧
      u = { s with due := u.due, responses := u.responses, ports := u.ports, hazards := u.hazards } ∧
      u.due = s.due.tail ++ (if (s.ports.get m).queue.tail = [] then [] else [.take m]) ∧
      u.responses = s.responses ++ [{ master := m, ok := true, data := data }] ∧
      (∀ k, u.ports.get k = if k = m then { queue := (s.ports.get m).queue.tail, stage := .waiting } else s.ports.get k) ∧
      u.memoryPort = s.memoryPort ∧
      (∀ (i : Nat) (be : Enables) (x : Lanes), a.be[i]? = some be → acc[hit.offset + i]? = some x →
        data[i]? = some (maskWord be (wordOf (clampLane x.lo) (clampLane x.hi)))) ∧
      (∀ (w : Word) (be : Enables) (j : Nat), j < 4 →
        (maskWord be w).extractLsb' (8 * j) 8 = if be.getLsbD j then w.extractLsb' (8 * j) 8 else 0)

/-- R75, R16: an UPLINK read of a frame that a slot holds, under the read policy HOLD, waits on the slot, behind those that
wait already; released, it asks for its translation as any read does (ReadsSentThrough) and goes to memory with the part's
own number and, as the model has it, its master's byte enables (log 40). -/
def Obligations.HoldReadWaits : Prop :=
  (∀ (s : State) (m : Fin 16) (a : Access) (hit : WinHit) (n : Fin 16),
    s.Turn m a (.window hit) → hit.role = .uplink → a.dir = .read → s.slotOf hit.window hit.frame = some n →
    (s.services.get hit.service).through = false →
    let t := s.slots.get n
    exec (.uplinkRead m) s = .next (State.settle
      ((({ s with due := s.due.tail } : State).setSlot n { t with held := t.held ++ [m] }).setStage m (.heldSlot n hit)))) ∧
  (∀ (s : State) (n m : Fin 16) (a : Access) (hit : WinHit), s.front m = some a → s.stage m = .heldSlot n hit →
    s.releaseRead n m = s.sendThrough m a hit .plain true) ∧
  (∀ (s : State) (n m : Fin 16) (a : Access) (hit : WinHit), s.front m = some a → s.stage m = .heldSlot n hit →
    a.dir = .read → s.Direct hit.window hit.frame →
    s.releaseRead n m = s.setStage m (.issued
      { hit := some hit,
        port :=
          { number := 16, dir := .read,
            addr := directFrame (s.windows.get hit.window).translation.2 hit.frame + BitVec.ofNat 32 (4 * hit.offset),
            be := a.be, data := a.data },
        treat := .plain, answer := none, clip := .absent, changed := [] }))

/-! ## Downlink and programme traffic -/

/-- R83, R85, R86, R87, R16, R92: a segment's DOWNLINK read is judged. It is a talkthrough read while INCIDENT, with the
service's talkthrough enabled and an enabled UPLINK window of its source; then an underrun, answered with zeros and counted,
where a slot holds the source frame, else it asks for the source's translation. Otherwise it is an equalised read of the
window itself. The downlink gain is captured. ReadsSentThrough says how either read goes on; where its translation is a
DIRECT one, it goes to memory at once, the source read as one of the part's own with every byte on. -/
def Obligations.DownlinkReadJudged : Prop :=
  ∀ (s : State) (m : Fin 16) (a : Access) (hit : WinHit) (g : Fin 12),
    s.Turn m a (.window hit) → hit.role = .downlink → a.dir = .read → segOf m = some g →
    let s0 : State := { s with due := s.due.tail }
    let ends (u : State) : Prop := exec (.downlinkRead m) s = .next u.settle
    let gain := (s.segments.get g).downlinkGain
    let d := s.services.get hit.service
    let isSource (w : Fin 16) : Prop := (s.windows.get w).enable = true ∧ (s.windows.get w).role = some .uplink ∧
      (s.windows.get w).service = d.source
    let at4 (w : Fin 16) (f : Nat) : Addr :=
      directFrame (s.windows.get w).translation.2 f + BitVec.ofNat 32 (4 * hit.offset)
    (¬(s.incident = true ∧ d.talkthrough = true ∧ ∃ w, isSource w) →
      ends (s0.sendThrough m a hit (.equalise gain) false) ∧
      (s.Direct hit.window hit.frame → ends (s0.setStage m (.issued
        { hit := some hit,
          port := { number := m.val, dir := .read, addr := at4 hit.window hit.frame, be := a.be, data := a.data },
          treat := .equalise gain, answer := none, clip := .absent, changed := [] })))) ∧
    (s.incident = true → d.talkthrough = true → ∀ w, isSource w → (∀ x, x < w → ¬isSource x) →
      let u := (((hit.frame : Int) - (d.offset : Int)) % (2 ^ (s.windows.get w).size : Int)).toNat
      let isHeld (n : Fin 16) : Prop :=
        (s.slots.get n).state ≠ .free ∧ (s.slots.get n).window = w ∧ (s.slots.get n).frame = u
      ((∃ n, isHeld n) → ends (((s0.setService hit.service { d with underruns := min (d.underruns + 1) 65535 }).listIf
        (d.underruns < 65535) (.service hit.service)).respond m true (List.replicate a.len 0))) ∧
      ((∀ n, ¬isHeld n) →
        ends (s0.sendThrough m a hit (.talkthrough gain hit.service w u) false) ∧
        (s.Direct w u → ends (s0.setStage m (.issued
          { hit := some hit,
            port := { number := 16, dir := .read, addr := at4 w u, be := List.replicate a.len 0xF, data := [] },
            treat := .talkthrough gain hit.service w u, answer := none, clip := .absent, changed := [] })))))

/-- R124, R125, R130, R132, R133: a segment's PROGRAM read is judged, then asks for its translation with the mix values of the
record chosen; ReadsSentThrough says how it goes on (R134: with its clip read beside it), and ZoneAdvances what an advance
does. -/
def Obligations.ProgramReadJudged : Prop :=
  ∀ (s : State) (m : Fin 16) (a : Access) (hit : WinHit) (g : Fin 12),
    s.Turn m a (.window hit) → hit.role = .program → a.dir = .read → segOf m = some g →
    let s0 : State := { s with due := s.due.tail }
    let z := (s.segments.get g).zone
    let r := s.zones.get z
    let frames := 2 ^ (s.windows.get hit.window).size
    let sent (u : State) (t : Treatment) : Prop :=
      exec (.programRead m) s = .next (State.settle (u.sendThrough m a hit t false))
    let mixed (u : State) (f : FrameRecord) : Prop :=
      sent u (.mix { clip := if f.cue = none then none else some f.clip, gd := f.gd, gi := f.gi })
    let mixedFrom (u : State) (f : Option FrameRecord) : Prop :=
      match f with
      | some f => mixed u f
      | none => sent u .plain
    ((s.services.get hit.service).breakIn = false → sent s0 .plain) ∧
    ((s.services.get hit.service).breakIn = true → s.timingWindow z ≠ some hit.window → mixedFrom s0 r.current) ∧
    ((s.services.get hit.service).breakIn = true → s.timingWindow z = some hit.window →
      (r.current = none →
        let new : FrameRecord := match r.active with
          | some k =>
            let e := s.cues.get k.cue
            { frame := hit.frame, cue := some k.cue,
              clip := (e.clip &&& 0xFFFFFC00#32) + BitVec.ofNat 32 (k.k % e.length * 1024), gd := r.gd, gi := e.gi }
          | none => { frame := hit.frame, cue := none, clip := 0, gd := r.gd, gi := 0 }
        mixed ((s0.setZone z { r with current := some new, previous := none }).list (.zone z)) new) ∧
      (∀ c, r.current = some c →
        let d := (hit.frame + frames - c.frame % frames) % frames
        let e := s.segments.get g
        if d = 0 then mixed s0 c
        else if d = frames - 1 then mixedFrom s0 r.previous
        else if d ≤ frames / 2 - 1 then
          mixedFrom (State.advanceBy z frames d s0) ((State.advanceBy z frames d s0).zones.get z).current
        else sent ((s0.setSegment g { e with lagReads := min (e.lagReads + 1) 65535 }).listIf (e.lagReads < 65535)
          (.segment g)) .plain))

/-- R126, R127, R128, R129, R13, R130: one advance of a zone, in its steps: progress, selection, ramp and the new record; an
advance of d frames is d of them. That the cue entries are listed as they change, each before the status block for an event
of the cue that is lost, and the zone record last, is the model's choice (log 42). -/
def Obligations.ZoneAdvances : Prop :=
  (∀ (s : State) (z : Fin 8) (frames : Nat),
    s.advance z frames = (((s.progress z).select z).ramp z).formRecord z frames ∧
    State.advanceBy z frames 0 s = s ∧
    ∀ d, State.advanceBy z frames (d + 1) s = State.advanceBy z frames d (s.advance z frames)) ∧
  (∀ (s : State) (z : Fin 8),
    let r := s.zones.get z
    (r.active = none → s.progress z = s) ∧
    (∀ a, r.active = some a →
      let e := s.cues.get a.cue
      let k := if e.repeats = 0 ∧ e.length ≤ a.k + 1 then 0 else a.k + 1
      let finished := (e.repeats ≠ 0 ∧ k = e.length * e.repeats) ∨ e.state = .stopping
      (¬finished → s.progress z = s.setZone z { r with active := some { cue := a.cue, k := k } }) ∧
      (finished → s.progress z = ((s.setZone z { r with active := none }).list (.cue a.cue)).endCheck a.cue .completed))) ∧
  (∀ (s : State) (z : Fin 8),
    let r := s.zones.get z
    let waits (floor : Nat) (c : Fin 32) : Prop :=
      (s.cues.get c).waiting.getLsbD z.val = true ∧ floor < (s.cues.get c).level
    let best (floor : Nat) (c : Fin 32) : Prop := waits floor c ∧ ∀ x, waits floor x →
      (s.cues.get x).level < (s.cues.get c).level ∨ ((s.cues.get x).level = (s.cues.get c).level ∧ c ≤ x)
    let starts (u : State) (c : Fin 32) (stack : List StackEntry) : State :=
      let e := s.cues.get c
      let v : State := ((u.setZone z { r with active := some { cue := c, k := 0 }, stack := stack }).setCue c
        { e with
          waiting := e.waiting &&& ~~~(BitVec.twoPow 8 z.val)
          state := if e.state = .queued then .active else e.state }).list (.cue c)
      if e.state = .queued then v.raiseEvent .cueStarted c.val e.tag z.val else v
    (∀ a, r.active = some a →
      let level := (s.cues.get a.cue).level
      ((∀ c, ¬waits level c) → s.select z = s) ∧
      (∀ c, best level c →
        s.select z = starts (s.list (.cue a.cue)) c ({ cue := a.cue, level := level, k := a.k } :: r.stack))) ∧
    (r.active = none → r.stack = [] →
      ((∀ c, ¬waits 0 c) → s.select z = s) ∧ (∀ c, best 0 c → s.select z = starts s c [])) ∧
    (r.active = none → ∀ top below, r.stack = top :: below →
      ((∀ c, ¬waits top.level c) → s.select z =
        (s.setZone z { r with active := some { cue := top.cue, k := top.k }, stack := below }).list (.cue top.cue)) ∧
      (∀ c, best top.level c → s.select z = starts s c r.stack))) ∧
  (∀ (s : State) (z : Fin 8) (frames : Nat) (c : FrameRecord), (s.zones.get z).current = some c →
    let r := s.zones.get z
    let duck := match r.active with | some a => (s.cues.get a.cue).duck | none => 16384
    let level := match r.active with | some a => (s.cues.get a.cue).level | none => 0
    let gd := rampStep duck r.gd r.ramp
    let new : FrameRecord := match r.active with
      | some a =>
        let e := s.cues.get a.cue
        { frame := (c.frame + 1) % frames, cue := some a.cue,
          clip := (e.clip &&& 0xFFFFFC00#32) + BitVec.ofNat 32 (a.k % e.length * 1024), gd := gd, gi := e.gi }
      | none => { frame := (c.frame + 1) % frames, cue := none, clip := 0, gd := gd, gi := 0 }
    (s.ramp z).formRecord z frames =
      (s.setZone z { r with mask := level, gd := gd, previous := some c, current := some new }).list (.zone z))

/-! ## The control region -/

/-- R162, R26: a control-region read is held while a record that it covers is listed or being written back, once for each of
the two; else it goes to memory at its own address, unchanged. It covers a record on which any of the four bytes of one of its
words falls, whatever its byte enables (log 35), and a write-back that a soft reset has made void holds it too until it is
answered (log 26). -/
def Obligations.ControlReadHeld : Prop :=
  ∀ (s : State) (m : Fin 16) (a : Access), s.Turn m a .control → a.dir = .read →
    let s0 : State := { s with due := s.due.tail }
    let covered (id : RecordId) : Prop :=
      ∃ j < 4 * a.len, ∃ o, areaOf ((a.addr - s.regionBase).toNat + j) = .record id o
    let inFlight (id : RecordId) : Prop := ∃ b, s.writeBack = some b ∧ b.id = id
    ((∀ id, covered id → s.listed id = false ∧ ¬inFlight id) →
      exec (.controlRegionRead m) s = .next (State.settle (s0.setStage m (.issued
        { hit := none, port := { number := m.val, dir := .read, addr := a.addr, be := a.be, data := a.data },
          treat := .plain, answer := none, clip := .absent, changed := [] })))) ∧
    ((∃ id, covered id ∧ (s.listed id = true ∨ inFlight id)) →
      ∃ ids, exec (.controlRegionRead m) s = .next (State.settle (s0.setStage m (.heldRecords ids))) ∧
        (∀ id, id ∈ ids ↔ covered id ∧ (s.listed id = true ∨ inFlight id)) ∧
        ∀ id, covered id →
          (s.listed id = true → inFlight id → ids.count id = 2) ∧ (s.listed id = false ∨ ¬inFlight id → ids.count id ≤ 1))

/-- R153, R154, R155, R156, R157, R148, R150, R160: which bytes of a control-region write are left unmasked: an enabled byte of a
master that is not barred, host-owned or unowned, not locked, and not protected; the byte enables sent to memory are those;
and when a write-back in flight holds the write. The values that a write carries for a rescue flag, a service or a level are
judged as normalised, on the bytes left by locking (log 16); every byte is judged before any record takes one (log 30); a
write-back that a soft reset has made void holds the write too until it is answered (log 26). Which offsets belong to which record,
which of a record's are host-owned, and which offsets outside the records a host may write, stand at the end. -/
def Obligations.ControlBytesMasked : Prop :=
  (∀ (s : State) (m : Fin 16) (a : Access) (i j : Nat) (be : Enables) (w : Word),
    a.be[i]? = some be → a.data[i]? = some w → j < 4 →
    let off := (a.addr - s.regionBase).toNat + 4 * i + j
    let left := be.getLsbD j = true ∧ s.barred.getLsbD m.val = false ∧ hostWritable off = true ∧ s.locked off = false
    let isProtected := s.incident = true ∧ m ≠ s.incidentMaster ∧ s.protects (s.unlockedBytes m a) off = true
    let x : WByte := { off := off, val := BitVec.ofNat 8 (w.toNat / 256 ^ j) }
    (x ∈ s.unlockedBytes m a ↔ left) ∧ (x ∈ s.keptBytes m a ↔ left ∧ ¬isProtected) ∧
    (x ∈ s.protectedBytes m a ↔ left ∧ isProtected) ∧
    (∀ be', (s.keptEnables m a)[i]? = some be' → (be'.getLsbD j = true ↔ x ∈ s.keptBytes m a))) ∧
  (∀ (s : State) (m : Fin 16) (a : Access),
    s.writeHeld m a = true ↔ ∃ b, s.writeBack = some b ∧
      ∃ x ∈ s.keptBytes m a, ∃ o ∈ b.hostBytes, x.off = recordOffset b.id + o) ∧
  (∀ (s : State) (w : Fin 16) (o : Nat), o < 32 → (s.locked (recordOffset (.window w) + o) = true ↔
    o ≠ 0 ∧ ((s.windows.get w).enable = true ∨ (s.windows.get w).retiring = true))) ∧
  (∀ (s : State) (v : Fin 8) (o : Nat), o < 64 → (s.locked (recordOffset (.service v) + o) = true ↔
    (s.services.get v).enable = true ∧ o ≠ 0 ∧ o ≠ 6 ∧ o ≠ 7 ∧ ¬(8 ≤ o ∧ o ≤ 15))) ∧
  (∀ (s : State) (c : Fin 32) (o : Nat), o < 32 → (s.locked (recordOffset (.cue c) + o) = true ↔
    o ≠ 0 ∧ (s.cues.get c).state ≠ .idle)) ∧
  (∀ (s : State) (off : Nat), s.locked off = true → ∃ id o, areaOf off = .record id o ∧
    ((∃ w, id = .window w) ∨ (∃ v, id = .service v) ∨ ∃ c, id = .cue c)) ∧
  (∀ (s : State) (bs : List WByte) (w : Fin 16) (v : Fin 8) (g : Fin 12) (z : Fin 8) (c : Fin 32) (o : Nat),
    (o < 64 → (s.protects bs (recordOffset (.service v) + o) = true ↔ (s.services.get v).rescue = true ∨
      ∃ b, carried bs (recordOffset (.service v) + 2) = some b ∧ b ≠ 0)) ∧
    (o < 32 → (s.protects bs (recordOffset (.window w) + o) = true ↔
      (s.services.get (s.windows.get w).service).rescue = true ∨
      ∃ b, carried bs (recordOffset (.window w) + 2) = some b ∧ (s.services.get (Fin.ofNat 8 b.toNat)).rescue = true)) ∧
    (o < 64 → s.protects bs (recordOffset (.segment g) + o) = true) ∧
    (o < 128 → s.protects bs (recordOffset (.zone z) + o) = true) ∧
    (o < 32 → (s.protects bs (recordOffset (.cue c) + o) = true ↔ (s.cues.get c).level = 7 ∨
      ∃ b, carried bs (recordOffset (.cue c) + 2) = some b ∧ b.toNat % 8 = 7)) ∧
    (s.protects bs 0x40 = true ↔ ∃ b, carried bs 0x40 = some b ∧ b ≠ 0) ∧
    (s.protects bs 0x41 = true ↔ carried bs 0x41 = some 0) ∧
    (∀ off, (0x42 ≤ off ∧ off < 0x100) ∨ 0x1000 ≤ off → s.protects bs off = false)) ∧
  (∀ (w : Fin 16) (v : Fin 8) (g : Fin 12) (z : Fin 8) (c : Fin 32) (n : Fin 16),
    let stands (id : RecordId) (off size : Nat) : Prop := recordOffset id = off ∧ recordSize id = size
    stands .status 0 64 ∧ stands .accessFault 0x80 32 ∧ stands .memoryFault 0xA0 32 ∧
      stands (.window w) (0x100 + 32 * w.val) 32 ∧ stands (.service v) (0x300 + 64 * v.val) 64 ∧
      stands (.segment g) (0x500 + 64 * g.val) 64 ∧ stands (.zone z) (0x800 + 128 * z.val) 128 ∧
      stands (.cue c) (0xC00 + 32 * c.val) 32 ∧ stands (.slot n) (0x1000 + 64 * n.val) 64) ∧
  (∀ (off : Nat) (id : RecordId) (o : Nat), areaOf off = .record id o ↔ off = recordOffset id + o ∧ o < recordSize id) ∧
  (∀ (id : RecordId) (o : Nat), o < recordSize id → hostWritable (recordOffset id + o) = hostOwned id o) ∧
  (∀ (w : Fin 16) (v : Fin 8) (g : Fin 12) (z : Fin 8) (c : Fin 32) (n : Fin 16) (o : Nat),
    (hostOwned (.window w) o = true ↔ o ≤ 8 ∨ (12 ≤ o ∧ o ≤ 15)) ∧ (hostOwned (.service v) o = true ↔ o ≤ 18) ∧
    (hostOwned (.segment g) o = true ↔ o ≤ 7) ∧ (hostOwned (.zone z) o = true ↔ o = 0 ∨ o = 2 ∨ o = 3) ∧
    (hostOwned (.cue c) o = true ↔ o ≤ 15) ∧ hostOwned (.slot n) o = false ∧ hostOwned .status o = false ∧
    hostOwned .accessFault o = false ∧ hostOwned .memoryFault o = false) ∧
  (∀ off, (∀ id o, areaOf off ≠ .record id o) → (hostWritable off = true ↔
    (0x40 ≤ off ∧ off ≤ 0x47) ∨ (0x48 ≤ off ∧ off ≤ 0x7F) ∨ 0x1800 ≤ off))

/-- R156, R158, R149, R150, R160: a control-region write is taken, under whichever of its rows' names (the rows overlap, log
29), where its bytes carry what the row names. Held by a write-back, it waits for it; else it leaves `State.written`: one
charge for its protected bytes, judged before any byte acts (log 30), then each record that it is a write to takes its
unmasked bytes and is normalised, in ascending address, then the request block (log 17); and a soft reset follows last. It is
a write to the records on which an enabled byte falls, where protection masks none of the record's bytes; that bytes masked
by ownership or locking count is the model's reading (log 37). The records that the issued write keeps from being written
back until it is answered are all those of which the part changed a host-owned byte in it, a refused enable and a request
byte written back among them, which is the model's reading of R160 (log 18). The charge: fault PROTECTED at the first masked
word, the protected-write count, and the writer's refusal count, which bars the writer at 8. A barred master's write leaves
everything as it was and goes to memory with no byte enabled; a write of protected bytes alone does so too, after its charge. -/
def Obligations.ControlWriteTaken : Prop :=
  (∀ (s : State) (m : Fin 16) (a : Access) (c : Instr), s.Turn m a .control → a.dir = .write →
    c ∈ [.controlRegionWrite m, .windowEnable m, .windowDisable m, .serviceEnable m, .serviceDisable m, .segmentEnable m,
      .segmentDisable m, .zoneTimingServiceWrite m, .cueStart m, .cueStop m, .latchSet m, .latchClear m, .accessFaultClear m,
      .memoryFaultClear m, .eventConsumerIndexWrite m, .missLimitWrite m, .eventEnableMaskWrite m, .softReset m] →
    isAbout c s a .control = true →
    (s.writeHeld m a = true →
      exec c s = .next (State.settle (({ s with due := s.due.tail } : State).setStage m .heldWriteBack))) ∧
    (s.writeHeld m a = false → (∀ b, carried (s.keptBytes m a) 0x40 = some b → b = 0) →
      exec c s = .next (State.settle (s.written m a))) ∧
    (∀ b, s.writeHeld m a = false → carried (s.keptBytes m a) 0x40 = some b → b ≠ 0 →
      exec c s = .next (State.settle (s.written m a).softReset))) ∧
  (∀ (s : State) (m : Fin 16) (a : Access) (id : RecordId),
    let falls (bs : List WByte) : Prop := ∃ x ∈ bs, ∃ o, areaOf x.off = .record id o
    (id ∈ s.recordsWritten m a ↔
      s.barred.getLsbD m.val = false ∧ falls (s.writeBytes a) ∧ ¬falls (s.protectedBytes m a)) ∧
    (s.recordsWritten m a).Pairwise (fun x y => recordOffset x < recordOffset y)) ∧
  (∀ (s : State) (bs : List WByte),
    (∀ w, State.takeRecord bs s (.window w) = s.takeWindow bs w) ∧
    (∀ v, State.takeRecord bs s (.service v) = s.takeService bs v) ∧
    (∀ g, State.takeRecord bs s (.segment g) = s.takeSegment bs g) ∧
    (∀ z, State.takeRecord bs s (.zone z) = s.takeZone bs z) ∧ (∀ c, State.takeRecord bs s (.cue c) = s.takeCue bs c) ∧
    ∀ id, hostSpans id = [] → State.takeRecord bs s id = s) ∧
  (∀ (before after : State) (ids : List RecordId) (bs : List WByte) (id : RecordId),
    id ∈ changedRecords before after ids bs ↔ id ∈ ids ∧
      ((∃ p ∈ hostSpans id, ∃ o, p.1 ≤ o ∧ o < p.1 + p.2 ∧ before.overlay bs id o ≠ recordByte after.view id o) ∨
        ∃ b, carried bs (recordOffset id) = some b ∧ b ≠ recordByte after.view id 0)) ∧
  (∀ (s : State) (m : Fin 16) (addr : Addr),
    let n := s.refusals.get m + 1
    let f := s.raiseFault .protectedWrite m.val addr none
    let p : State := ({ f with protectedWrites := min (s.protectedWrites + 1) 65535 } : State).listIf
      (s.protectedWrites < 65535) .status
    let q : State := { p with refusals := setAt s.refusals m (min n 8) }
    (n < 8 → s.countProtected m addr = q) ∧
    (8 ≤ n → s.countProtected m addr =
      (({ q with barred := s.barred ||| BitVec.twoPow 16 m.val } : State).raiseEvent .masterBarred m.val 0 0).list .status)) ∧
  (∀ (s : State) (m : Fin 16) (a : Access),
    let s0 : State := { s with due := s.due.tail }
    let issued (u : State) : State := u.setStage m (.issued
      { hit := none, port := { number := m.val, dir := .write, addr := a.addr, be := List.replicate a.len 0, data := a.data },
        treat := .plain, answer := none, clip := .absent, changed := [] })
    (s.barred.getLsbD m.val = true →
      s.keptBytes m a = [] ∧ s.protectedBytes m a = [] ∧ s.recordsWritten m a = [] ∧ s.writeHeld m a = false ∧
      s.written m a = issued s0) ∧
    (∀ x rest, s.protectedBytes m a = x :: rest → (∀ y ∈ s.writeBytes a, y ∈ s.protectedBytes m a) →
      s.keptBytes m a = [] ∧ s.writeHeld m a = false ∧
      s.written m a = issued (s0.countProtected m (s.regionBase + BitVec.ofNat 32 (x.off - x.off % 4))))) ∧
  (∀ (s : State) (m : Fin 16) (a : Access) (be : List Enables) (ids : List RecordId),
    s.issueMasked m a be ids = s.setStage m (.issued
      { hit := none, port := { number := m.val, dir := .write, addr := a.addr, be := be, data := a.data },
        treat := .plain, answer := none, clip := .absent, changed := ids }))

/-- R158, R155: the values that the copies of the tables take from bytes, and which fields are marked to be written back: every
field of which a byte differs from what the part then holds. The translated base, the map base and the clip are held as
written, their low bits taken as zero where they are used (log 20). -/
def Obligations.CopiesNormalised : Prop :=
  (∀ (raw : Nat → Byte) (e : WindowEntry),
    let e' := decodeWindow raw e
    let size := (raw 3).toNat
    e' = { e with
      roleCode := raw 1, service := e'.service, size := e'.size, base := e'.base, mapped := (raw 8).getLsbD 0,
      target := raw 15 ++ raw 14 ++ raw 13 ++ raw 12 } ∧
    e'.service.val = (raw 2).toNat % 8 ∧
    e'.size = (if 14 < size then 14 else if size < 2 ∧ (raw 1 = 1 ∨ raw 1 = 3) then 2 else size) ∧
    e'.base.toNat % (1024 * 2 ^ e'.size) = 0 ∧ e'.base.toNat ≤ (raw 7 ++ raw 6 ++ raw 5 ++ raw 4).toNat ∧
    (raw 7 ++ raw 6 ++ raw 5 ++ raw 4).toNat < e'.base.toNat + 1024 * 2 ^ e'.size) ∧
  (∀ (raw : Nat → Byte) (e : ServiceEntry),
    let e' := decodeService raw e
    let word (o : Nat) : Nat := (raw (o + 3) ++ raw (o + 2) ++ raw (o + 1) ++ raw o).toNat
    let half (o : Nat) : Nat := (raw (o + 1) ++ raw o).toNat
    e' = { e with
      program := (raw 1).getLsbD 0
      rescue := decide (raw 2 ≠ 0)
      through := (raw 3).getLsbD 0
      deadline := if half 4 < 20 then 20 else half 4
      holdFrames := (raw 6).toNat % 16
      talkthrough := decide (raw 7 ≠ 0)
      openThreshold := word 8
      closeThreshold := if word 8 < word 12 then word 8 else word 12
      source := e'.source
      offset := if raw 17 = 0 then 1 else (raw 17).toNat
      breakIn := decide (raw 18 ≠ 0) } ∧
    e'.source.val = (raw 16).toNat % 8) ∧
  (∀ (raw : Nat → Byte) (e : SegmentEntry),
    let e' := decodeSegment raw e
    e' = { e with
      zone := e'.zone, stallTimeout := (raw 2).toNat, uplinkServices := raw 3,
      downlinkGain := (raw 5 ++ raw 4).toNat, uplinkGain := (raw 7 ++ raw 6).toNat } ∧ e'.zone.val = (raw 1).toNat % 8) ∧
  (∀ (raw : Nat → Byte) (r : ZoneRecord),
    let r' := decodeZone raw r
    let step := (raw 3 ++ raw 2).toNat
    r' = { r with timing := r'.timing, ramp := if step = 0 ∨ 16384 < step then 16384 else step } ∧
      r'.timing.val = (raw 0).toNat % 8) ∧
  (∀ (raw : Nat → Byte) (e : CueEntry),
    let half (o : Nat) : Nat := (raw (o + 1) ++ raw o).toNat
    decodeCue raw e = { e with
      tag := raw 1
      level := (raw 2).toNat % 8
      zones := raw 3
      clip := raw 7 ++ raw 6 ++ raw 5 ++ raw 4
      length := if half 8 = 0 then 1 else half 8
      repeats := (raw 10).toNat
      autoStart := decide (raw 11 ≠ 0)
      gi := if 32767 < half 12 then 32767 else half 12
      duck := if 16384 < half 14 then 16384 else half 14 }) ∧
  (∀ (spans : List (Nat × Nat)) (raw new : Nat → Byte) (o : Nat),
    o ∈ changedBytes spans raw new ↔ ∃ p ∈ spans, p.1 ≤ o ∧ o < p.1 + p.2 ∧
      ∃ i, p.1 ≤ i ∧ i < p.1 + p.2 ∧ raw i ≠ new i) ∧
  (∀ (s : State) (id : RecordId) (dirty : List Nat),
    s.listDirty id dirty = if dirty = [] then s else { s with writeBackList := addListed id dirty s.writeBackList })

/-- R155, R163, R137, R153: the bytes that each record shows. Fields are little-endian; a set is a bit mask; every byte that
the layout names no field for is 0. A status block shows the timebase's low 32 bits; a zone record its active cue's repeats
left; a cue entry the zones it plays and is suspended in; a stack is shown bottom first. What the bytes of an absent active
cue and of an empty frame record hold is not stated (log 21). -/
def Obligations.BytesLaidOut : Prop :=
  ∀ s : State,
    let shows (id : RecordId) (o n x : Nat) : Prop :=
      ∀ k < n, recordByte s.view id (o + k) = BitVec.ofNat 8 (x / 256 ^ k)
    let flag (b : Bool) : Nat := if b then 1 else 0
    let bits (id : RecordId) (o : Nat) (p : Nat → Prop) : Prop := ∀ i < 8, (recordByte s.view id o).getLsbD i = true ↔ p i
    let zero (id : RecordId) (o n : Nat) : Prop := shows id o n 0
    (shows .status 0 2 0x2640 ∧ shows .status 2 1 1 ∧ shows .status 3 1 (flag s.ready) ∧
      bits .status 4 (fun i => (i = 0 ∧ s.incident = true) ∨ (i = 1 ∧ s.latch = true) ∨ (i = 2 ∧ s.qualified = true)) ∧
      shows .status 5 1 s.producer.toNat ∧ shows .status 6 1 s.consumer.toNat ∧ shows .status 7 1 s.writeBackList.length ∧
      shows .status 8 2 s.lostEvents ∧ shows .status 10 2 s.lostFaults ∧ shows .status 12 2 s.protectedWrites ∧
      shows .status 14 2 s.barred.toNat ∧ shows .status 16 4 s.timebase ∧ zero .status 20 44) ∧
    (∀ c : Bool,
      let f := s.faultRecord c
      let id : RecordId := if c then .memoryFault else .accessFault
      shows id 0 1 (flag f.valid) ∧ shows id 1 1 (match f.kind with | some k => k.code | none => 0) ∧
        shows id 2 1 f.master ∧ shows id 3 1 (match f.window with | some w => w.val | none => 0xFF) ∧
        shows id 4 4 f.addr.toNat ∧ shows id 8 1 (flag f.lost) ∧ zero id 9 23) ∧
    (∀ w,
      let e := s.windows.get w
      let id := RecordId.window w
      shows id 0 1 (flag e.enable) ∧ shows id 1 1 e.roleCode.toNat ∧ shows id 2 1 e.service.val ∧ shows id 3 1 e.size ∧
        shows id 4 4 e.base.toNat ∧ shows id 8 1 (flag e.mapped) ∧ zero id 9 3 ∧ shows id 12 4 e.target.toNat ∧
        shows id 16 1 (flag e.retiring) ∧ zero id 17 1 ∧ shows id 18 2 (e.horizon.getD 0xFFFF) ∧ zero id 20 12) ∧
    (∀ v,
      let e := s.services.get v
      let id := RecordId.service v
      shows id 0 1 (flag e.enable) ∧ shows id 1 1 (flag e.program) ∧ shows id 2 1 (flag e.rescue) ∧
        shows id 3 1 (flag e.through) ∧ shows id 4 2 e.deadline ∧ shows id 6 1 e.holdFrames ∧
        shows id 7 1 (flag e.talkthrough) ∧ shows id 8 4 e.openThreshold ∧ shows id 12 4 e.closeThreshold ∧
        shows id 16 1 e.source.val ∧ shows id 17 1 e.offset ∧ shows id 18 1 (flag e.breakIn) ∧ zero id 19 13 ∧
        shows id 32 2 e.complete ∧ shows id 34 2 e.short ∧ shows id 36 2 e.evictions ∧ shows id 38 2 e.saturated ∧
        shows id 40 2 e.underruns ∧ shows id 42 2 e.flushErrors ∧ shows id 44 4 e.lastPower ∧ zero id 48 16) ∧
    (∀ g,
      let e := s.segments.get g
      let id := RecordId.segment g
      let state := match e.state with | .offline => 0 | .active => 1 | .stalled => 2 | .excluded => 3
      shows id 0 1 (flag e.enable) ∧ shows id 1 1 e.zone.val ∧ shows id 2 1 e.stallTimeout ∧
        shows id 3 1 e.uplinkServices.toNat ∧ shows id 4 2 e.downlinkGain ∧ shows id 6 2 e.uplinkGain ∧
        shows id 8 1 state ∧ zero id 9 1 ∧ shows id 10 2 e.consecutive ∧ shows id 12 2 e.total ∧
        shows id 14 2 e.lateWrites ∧ shows id 16 2 e.sequenceErrors ∧ shows id 18 2 e.lagReads ∧
        shows id 20 2 e.offlineAccesses ∧ zero id 22 2 ∧
        (∀ v : Fin 8, shows id (24 + v.val) 1 ((if (e.gates.get v).isOpen then 128 else 0) + (e.gates.get v).hold % 16)) ∧
        zero id 32 32) ∧
    (∀ z,
      let r := s.zones.get z
      let id := RecordId.zone z
      let record (f : Option FrameRecord) (o : Nat) : Prop :=
        (f = none → shows id o 1 0) ∧ zero id (o + 12) 4 ∧
        ∀ x, f = some x → shows id o 1 1 ∧ shows id (o + 1) 1 (match x.cue with | some c => c.val | none => 0xFF) ∧
          shows id (o + 2) 2 x.frame ∧ shows id (o + 4) 4 x.clip.toNat ∧ shows id (o + 8) 2 x.gd ∧ shows id (o + 10) 2 x.gi
      shows id 0 1 r.timing.val ∧ zero id 1 1 ∧ shows id 2 2 r.ramp ∧ shows id 4 1 r.mask ∧
        (r.active = none → shows id 5 1 0xFF) ∧
        (∀ a, r.active = some a →
          let e := s.cues.get a.cue
          shows id 5 1 a.cue.val ∧ shows id 8 4 a.k ∧
            shows id 12 1 (if e.repeats = 0 then 0 else e.repeats - a.k / e.length)) ∧
        shows id 6 1 r.stack.length ∧ zero id 7 1 ∧ zero id 13 1 ∧ shows id 14 2 r.gd ∧
        (∀ i < 6, (r.stack.length ≤ i → zero id (16 + 8 * i) 8) ∧
          ∀ x, r.stack.reverse[i]? = some x → shows id (16 + 8 * i) 1 x.cue.val ∧ shows id (17 + 8 * i) 1 x.level ∧
            zero id (18 + 8 * i) 2 ∧ shows id (20 + 8 * i) 4 x.k) ∧
        record r.current 64 ∧ record r.previous 80 ∧ zero id 96 32) ∧
    (∀ c,
      let e := s.cues.get c
      let id := RecordId.cue c
      let state := match e.state with | .idle => 0 | .queued => 1 | .active => 2 | .stopping => 3
      let reason := match e.lastEnd with
        | .none => 0 | .completed => 1 | .stopped => 2 | .cancelled => 3 | .busy => 4 | .noZone => 5 | .level => 6
        | .tagClash => 7
      zero id 0 1 ∧ shows id 1 1 e.tag.toNat ∧ shows id 2 1 e.level ∧ shows id 3 1 e.zones.toNat ∧
        shows id 4 4 e.clip.toNat ∧ shows id 8 2 e.length ∧ shows id 10 1 e.repeats ∧ shows id 11 1 (flag e.autoStart) ∧
        shows id 12 2 e.gi ∧ shows id 14 2 e.duck ∧ shows id 16 1 state ∧ shows id 17 1 e.waiting.toNat ∧
        (∀ z : Fin 8, ((recordByte s.view id 18).getLsbD z.val = true ↔ ∃ a, (s.zones.get z).active = some a ∧ a.cue = c) ∧
          ((recordByte s.view id 19).getLsbD z.val = true ↔ ∃ x ∈ (s.zones.get z).stack, x.cue = c)) ∧
        shows id 20 1 reason ∧ shows id 21 1 (flag e.stopped) ∧ zero id 22 10) ∧
    (∀ n,
      let t := s.slots.get n
      let id := RecordId.slot n
      let state := match t.state with | .free => 0 | .filling => 1 | .flushing => 2
      let outcome := match t.outcome with | .none => 0 | .complete => 1 | .deadline => 2 | .evicted => 3 | .retired => 4
      shows id 0 1 state ∧ shows id 1 1 t.window.val ∧ shows id 2 1 t.service.val ∧ shows id 3 1 outcome ∧
        shows id 4 2 t.frame ∧
        bits id 6 (fun i => ∃ g ∈ t.expected, g.val + 1 = i) ∧ bits id 7 (fun i => ∃ g ∈ t.expected, g.val + 1 = 8 + i) ∧
        shows id 8 4 t.allocTick.toNat ∧ shows id 12 4 t.deadlineTick.toNat ∧ shows id 16 2 t.satCount ∧ zero id 18 2 ∧
        (∀ g : Fin 12,
          let c := t.contribs.get g
          let code := match c.state with | .none => 0 | .filling => 1 | .done => 2 | .broken => 3
          shows id (20 + 2 * g.val) 2 (c.next % 512 + 512 * code + 2048 * flag c.gated)) ∧
        zero id 44 20) ∧
    (∀ (id : RecordId) (o : Nat), o < recordSize id → imageByte s.view (recordOffset id + o) = recordByte s.view id o) ∧
    (imageByte s.view 0x40 = s.request.softReset ∧ imageByte s.view 0x41 = s.request.latch ∧
      imageByte s.view 0x42 = s.request.accessClear ∧ imageByte s.view 0x43 = s.request.memoryClear ∧
      imageByte s.view 0x44 = BitVec.ofNat 8 s.consumer.toNat ∧ imageByte s.view 0x45 = BitVec.ofNat 8 s.request.missLimit ∧
      (∀ i < 8, (imageByte s.view 0x46).getLsbD i = s.request.eventMask.getLsbD i ∧
        (imageByte s.view 0x47).getLsbD i = s.request.eventMask.getLsbD (8 + i)) ∧
      ∀ off, (0x48 ≤ off ∧ off < 0x80) ∨ (0xC0 ≤ off ∧ off < 0x100) → imageByte s.view off = 0)

/-- R28, R29, R158, R159: a window entry takes a write's bytes. The copy takes the values first, normalised, and every
host-owned field of which a byte differs from what the part then holds is to be written back; then the enable acts. Enable 1
for a window that is disabled and not retiring: the checks are made in order, and the first that fails refuses with its
reason code; an accepted enable gives the window no horizon. Enable 1 for a retiring window is refused. A value of the enable
byte that the part does not hold is written back. WindowsRetire states what enable 0 does to an enabled window. The order on
the list is the model's choice (log 42): the entry of an accepted enable before the zones that lose their frame records, and
the status block, for a lost WINDOW_REFUSED, before the entry. -/
def Obligations.WindowEnabled : Prop :=
  (∀ (s : State) (bs : List WByte) (w : Fin 16),
    let raw := s.overlay bs (.window w)
    let old := s.windows.get w
    let e := decodeWindow raw old
    let s2 : State := (s.setWindow w e).listDirty (.window w) (changedBytes windowSpans raw (windowByte e))
    let held (b : Byte) (u : State) : State := if b = 1 then u else u.listBytes (.window w) [0]
    let v := s.services.get e.service
    let region (x : WindowEntry) (p : Addr) : Prop := (p - (x.translation.2 &&& 0xFFFFFFFC#32)).toNat < 4 * 2 ^ x.size
    let range (x : WindowEntry) (p : Addr) : Prop := (p - x.base).toNat < 1024 * 2 ^ x.size
    let overlap (x y : WindowEntry) : Prop := ∃ p, region x p ∧ range y p
    let clash := (e.mapped = true ∧ (overlap e e ∨
        ∃ x, x ≠ w ∧ (s.windows.get x).enable = true ∧ overlap e (s.windows.get x))) ∨
      ∃ x, x ≠ w ∧ ((s.windows.get x).enable = true ∨ (s.windows.get x).retiring = true) ∧
        (s.windows.get x).translation.1 = true ∧ overlap (s.windows.get x) e
    let ends (u : State) : Prop := s.takeWindow bs w = u
    let refused (reason : Nat) : Prop :=
      ends (((s2.raiseEvent .windowRefused w.val 0 reason).list (.window w)).listBytes (.window w) [0])
    (carried bs (recordOffset (.window w)) = none → ends s2) ∧
    (carried bs (recordOffset (.window w)) = some 0 → old.enable = false → ends s2) ∧
    (∀ b, carried bs (recordOffset (.window w)) = some b → b ≠ 0 →
      (old.retiring = false → old.enable = true → ends (held b s2)) ∧
      (old.retiring = true → old.enable = false → refused 4) ∧
      (old.retiring = false → old.enable = false →
        (e.role = none → refused 1) ∧
        (e.role ≠ none → v.enable = false → refused 2) ∧
        (e.role ≠ none → v.enable = true → ¬(e.role = some .program ↔ v.program = true) → refused 3) ∧
        (e.role ≠ none → v.enable = true → (e.role = some .program ↔ v.program = true) → clash → refused 5) ∧
        (e.role ≠ none → v.enable = true → (e.role = some .program ↔ v.program = true) → ¬clash →
          ends (held b (State.afterTiming s2
            ((s2.setWindow w { e with enable := true, horizon := none }).list (.window w)))))))) ∧
  (∀ (s : State) (w : Fin 16),
    ((s.windows.get w).retiring = true → s.enableWindow w = (s.raiseEvent .windowRefused w.val 0 4).list (.window w)) ∧
    ((s.windows.get w).retiring = false → (s.windows.get w).enable = true → s.enableWindow w = s) ∧
    ((s.windows.get w).enable = false → s.disableWindow w = s))

/-- R30, R32, R79, R122, R179: enable 0 for an enabled window, and for an enabled service, which retires every enabled window
of it. The windows leave classification with their translations captured, their FILLING slots are flushed SHORT, in ascending
number within a window and, as the model has it, window by window in ascending number (log 43), and a retirement ends at once
where nothing of its window is left. The order in which zones and windows are listed, a window whose retirement ends among
them, is the model's choice (log 42). -/
def Obligations.WindowsRetire : Prop :=
  (∀ (s : State) (bs : List WByte) (w : Fin 16),
    carried bs (recordOffset (.window w)) = some 0 → (s.windows.get w).enable = true →
    let raw := s.overlay bs (.window w)
    let e := decodeWindow raw (s.windows.get w)
    let s2 : State := (s.setWindow w e).listDirty (.window w) (changedBytes windowSpans raw (windowByte e))
    s.takeWindow bs w = ((State.afterTiming s2 (s2.beginRetiring w)).retireSlots w).endRetirement w) ∧
  (∀ (s : State) (bs : List WByte) (v : Fin 8),
    carried bs (recordOffset (.service v)) = some 0 → (s.services.get v).enable = true →
    let raw := s.overlay bs (.service v)
    let e := decodeService raw (s.services.get v)
    let ws := (List.finRange 16).filter (fun w => (s.windows.get w).enable = true ∧ (s.windows.get w).service = v)
    let s2 : State := (s.setService v e).listDirty (.service v) (changedBytes serviceSpans raw (serviceByte e))
    let off : State := State.afterTiming s2 (s2.setService v { e with enable := false })
    let marked : State := ws.foldl (fun x w => x.listBytes (.window w) [0]) off
    s.takeService bs v = ws.foldl State.endRetirement
      (ws.foldl State.retireSlots (State.afterTiming marked (ws.foldl State.beginRetiring marked)))) ∧
  (∀ (s : State) (w : Fin 16),
    let e := s.windows.get w
    s.beginRetiring w = (s.setWindow w
      { e with enable := false, retiring := true, captured := some (e.mapped, e.target) }).list (.window w) ∧
    s.retireSlots w = (List.finRange 16).foldl (fun x n =>
      if (x.slots.get n).state = .filling ∧ (x.slots.get n).window = w then x.startFlush n .retired else x) s ∧
    (e.retiring = true → s.windowBusy w = false → s.endRetirement w =
      (({ s with cache := s.cache.filter (fun c => c.window != w) } : State).setWindow w
        { e with retiring := false, horizon := none, captured := none }).list (.window w)) ∧
    (e.retiring = false ∨ s.windowBusy w = true → s.endRetirement w = s) ∧
    (s.windowBusy w = true ↔ (∃ n, (s.slots.get n).state ≠ .free ∧ (s.slots.get n).window = w) ∨
      ∃ m, (s.stage m).window = some w))

/-- R178, R121, R122, R158: a service entry takes a write's bytes, with no enable or with enable 1, or with enable 0 where it
is disabled (WindowsRetire has the rest); a zone record takes its own, another timing service among them; what the timing
window of a zone is, and that a zone whose timing window is another than before loses both frame records and nothing else,
listed, as the model has it, in ascending number (log 42). -/
def Obligations.TimingWindowsFollow : Prop :=
  (∀ (s : State) (bs : List WByte) (v : Fin 8),
    let raw := s.overlay bs (.service v)
    let old := s.services.get v
    let e := decodeService raw old
    let s2 : State := (s.setService v e).listDirty (.service v) (changedBytes serviceSpans raw (serviceByte e))
    let held (b : Byte) (u : State) : State := if b = 1 then u else u.listBytes (.service v) [0]
    let ends (u : State) : Prop := s.takeService bs v = u
    (carried bs (recordOffset (.service v)) = none → ends s2) ∧
    (carried bs (recordOffset (.service v)) = some 0 → old.enable = false → ends s2) ∧
    (∀ b, carried bs (recordOffset (.service v)) = some b → b ≠ 0 →
      (old.enable = true → ends (held b s2)) ∧
      (old.enable = false → ends (held b (State.afterTiming s2 (s2.setService v { e with enable := true })))))) ∧
  (∀ (s : State) (bs : List WByte) (z : Fin 8),
    let raw := s.overlay bs (.zone z)
    let s1 : State := s.setZone z (decodeZone raw (s.zones.get z))
    s.takeZone bs z = State.afterTiming s (s1.listDirty (.zone z) (changedBytes zoneSpans raw (recordByte s1.view (.zone z))))) ∧
  (∀ (s : State) (z : Fin 8) (w : Fin 16),
    let v := (s.zones.get z).timing
    let fits (x : Fin 16) : Prop := (s.windows.get x).enable = true ∧ (s.windows.get x).role = some .program ∧
      (s.windows.get x).service = v
    s.timingWindow z = some w ↔ (s.services.get v).enable = true ∧ (s.services.get v).program = true ∧
      (s.services.get v).breakIn = true ∧ fits w ∧ ∀ x, x < w → ¬fits x) ∧
  (∀ before s : State,
    let u := State.afterTiming before s
    let loses (z : Fin 8) : Bool := s.timingWindow z != before.timingWindow z &&
      ((s.zones.get z).current.isSome || (s.zones.get z).previous.isSome)
    u = { s with
      zones := u.zones
      writeBackList :=
        ((List.finRange 8).filter loses).foldl (fun l z => addListed (.zone z) [] l) s.writeBackList } ∧
    ∀ z, u.zones.get z =
      (if s.timingWindow z = before.timingWindow z then s.zones.get z
        else { s.zones.get z with current := none, previous := none }))

/-- R95, R97, R98, R104, R158: a segment entry takes a write's bytes: the fields first, then enable 1 for an OFFLINE segment,
or enable 0 for one that is not, whose departure from ACTIVE is noticed. -/
def Obligations.SegmentSwitched : Prop :=
  ∀ (s : State) (bs : List WByte) (g : Fin 12),
    let raw := s.overlay bs (.segment g)
    let e := decodeSegment raw (s.segments.get g)
    let s2 : State := (s.setSegment g e).listDirty (.segment g) (changedBytes segmentSpans raw (segmentByte e))
    let ends (b : Byte) (u : State) : Prop := s.takeSegment bs g =
      if b = (if (u.segments.get g).enable then 1 else 0) then u else u.listBytes (.segment g) [0]
    (carried bs (recordOffset (.segment g)) = none → s.takeSegment bs g = s2) ∧
    (∀ b, carried bs (recordOffset (.segment g)) = some b →
      (b ≠ 0 → e.state = .offline → ends b ((s2.setSegment g
        { e with
          enable := true
          state := .active
          consecutive := 0
          gates := Vector.ofFn (fun v => { isOpen := true, hold := (s.services.get v).holdFrames })
          timer := if e.stallTimeout = 0 then none else some (s.timebase + 1000 * e.stallTimeout) }).list (.segment g))) ∧
      (b ≠ 0 → e.state ≠ .offline → ends b s2) ∧
      (b = 0 → e.state = .offline → ends b s2) ∧
      (b = 0 → e.state ≠ .offline →
        let off : State := s2.setSegment g { e with enable := false, state := .offline, timer := none }
        ends b (({ off with departures :=
          if e.state = .active then s.departures ++ [g] else s.departures } : State).list (.segment g)))) ∧
    e.state = (s.segments.get g).state

/-- R114 to R119, R120, R158, R159: a cue entry takes a write's bytes, then its request acts, and a request byte other than 0
is written back as NONE. A START is refused by the first condition that holds, which lists the entry where its last end
reason changes, and one refused with TAG_CLASH cancels every QUEUED cue in ascending index, unless it is made on incident
entry; an accepted cue is QUEUED and waits in its zones. A STOP removes the waiting memberships and the stack entries, whose
zones are listed, by the model's choice in ascending number and before the cue (log 42, as is that a cue entry is listed
before the status block for an event of the cue that is lost); a playing cue becomes STOPPING, any other ends. -/
def Obligations.CueRequested : Prop :=
  (∀ (s : State) (bs : List WByte) (c : Fin 32),
    let raw := s.overlay bs (.cue c)
    let s1 : State := s.setCue c (decodeCue raw (s.cues.get c))
    let s2 : State := s1.listDirty (.cue c) (changedBytes cueSpans raw (recordByte s1.view (.cue c)))
    (carried bs (recordOffset (.cue c)) = none → s.takeCue bs c = s2) ∧
    ∀ b, carried bs (recordOffset (.cue c)) = some b →
      (b = 0 → s.takeCue bs c = s2) ∧
      (b = 1 → s.takeCue bs c = (s2.startCue c true).listBytes (.cue c) [0]) ∧
      (b = 2 → s.takeCue bs c = (s2.stopCue c).listBytes (.cue c) [0]) ∧
      (b ≠ 0 → b ≠ 1 → b ≠ 2 → s.takeCue bs c = s2.listBytes (.cue c) [0])) ∧
  (∀ (s : State) (c : Fin 32) (host : Bool),
    let e := s.cues.get c
    let refused (r : CueReason) : State :=
      ((s.setCue c { e with lastEnd := r }).listIf (e.lastEnd != r) (.cue c)).raiseEvent .cueRefused c.val e.tag r.code
    let cancel (u : State) (d : Fin 32) : State :=
      if (u.cues.get d).state = .queued then
        ((u.setCue d { u.cues.get d with waiting := 0 }).listIf ((u.cues.get d).waiting != 0) (.cue d)).endCheck d .cancelled
      else u
    s.startCue c host =
      if e.state ≠ .idle then refused .busy
      else if e.zones = 0 then refused .noZone
      else if e.level = 0 ∨ (e.level = 7 ∧ s.incident = false) then refused .level
      else if ∃ d, d ≠ c ∧ (s.cues.get d).state ≠ .idle ∧ (s.cues.get d).tag = e.tag then
        if host then (List.finRange 32).foldl cancel (refused .tagClash) else refused .tagClash
      else (s.setCue c { e with state := .queued, waiting := e.zones, lastEnd := .none, stopped := false }).list (.cue c)) ∧
  (∀ (s : State) (c : Fin 32),
    let e := s.cues.get c
    let plays := ∃ z, ∃ k, (s.zones.get z).active = some k ∧ k.cue = c
    (e.state = .idle ∨ e.state = .stopping → s.stopCue c = s) ∧
    (e.state = .queued ∨ e.state = .active → ∃ u : State,
      u = { s with
        zones := u.zones
        cues := setAt s.cues c { e with
          waiting := 0, stopped := true, state := if e.state = .active ∧ plays then .stopping else e.state }
        writeBackList := addListed (.cue c) [] (((List.finRange 8).filter
          (fun z => (s.zones.get z).stack.any (fun x => x.cue == c))).foldl (fun l z => addListed (.zone z) [] l)
            s.writeBackList) } ∧
      (∀ z, u.zones.get z =
        { s.zones.get z with stack := (s.zones.get z).stack.filter (fun x => x.cue != c) }) ∧
      s.stopCue c = if e.state = .active ∧ plays then u else u.endCheck c .stopped)) ∧
  (∀ (s : State) (c : Fin 32) (reason : CueReason),
    let e := s.cues.get c
    let member := e.waiting ≠ 0 ∨ ∃ z, (∃ k, (s.zones.get z).active = some k ∧ k.cue = c) ∨
      ∃ x ∈ (s.zones.get z).stack, x.cue = c
    let why := if e.stopped then CueReason.stopped else reason
    ((e.state = .idle ∨ member) → s.endCheck c reason = s) ∧
    (e.state ≠ .idle → ¬member → s.endCheck c reason =
      ((s.setCue c { e with state := .idle, stopped := false, lastEnd := why }).list (.cue c)).raiseEvent .cueEnd c.val e.tag
        why.code))

/-- R164, R170, R172, R175, R141, R158: what the bytes of a write to the request block do when no soft reset is asked for: the
copies, the consumer index in effect, the latch request, the two fault clears, in this order, which is the model's choice (log
17). A soft reset follows once the write has been issued (SoftResetTakes). -/
def Obligations.RequestBlockWritten : Prop :=
  ∀ (s : State) (m : Fin 16) (bs : List WByte),
    let r := s.request
    let mask : BitVec 16 := r.eventMask.setWidth 16
    let s1 : State := { s with
      request :=
        { softReset := (carried bs 0x40).getD r.softReset
          latch := (carried bs 0x41).getD r.latch
          accessClear := (carried bs 0x42).getD r.accessClear
          memoryClear := (carried bs 0x43).getD r.memoryClear
          missLimit := match carried bs 0x45 with
            | none => r.missLimit
            | some b => if 15 < b.toNat then 15 else b.toNat
          eventMask := (((carried bs 0x47).getD (mask.extractLsb' 8 8) ++
            (carried bs 0x46).getD (mask.extractLsb' 0 8) : BitVec 16)).setWidth 14 } }
    let s2 : State := match carried bs 0x44 with
      | none => s1
      | some b =>
        let x : BitVec 7 := BitVec.ofNat 7 b.toNat
        let i := if 64 < (s.producer - x).toNat then s.producer else x
        ({ s1 with consumer := i } : State).listIf (i != s.consumer) .status
    let s3 : State := match carried bs 0x41 with
      | none => s2
      | some b => if b = 0 then s2.clearLatch m else s2.setLatch m
    let empty : FaultRecord := { valid := false, kind := none, master := 0, addr := 0, window := none, lost := false }
    let clear (off : Nat) (memoryClass : Bool) (u : State) : State := match carried bs off with
      | none => u
      | some b => if b ≠ 0 ∧ (u.faultRecord memoryClass).valid = true then u.setFaultRecord memoryClass empty else u
    s.takeRequest bs m = clear 0x43 true (clear 0x42 false s3)

/-! ## Incident operation and supervision -/

/-- R140, R141, R142, R143, R144, R145, R146: the latch request, the line and its qualification, and what entry into and
exit from INCIDENT do. The status block is listed with each change of the latch or of the qualified
level. That the timer's expiry is accepted at any tick at or after its time is the model's choice (log 3), and that the line is
not watched while the reset pin is low its reading (log 8). -/
def Obligations.IncidentChanges : Prop :=
  let entered (u : State) (object reason : Nat) : State := (List.finRange 32).foldl
    (fun x c => if (x.cues.get c).autoStart = true ∧ (x.cues.get c).state = .idle then x.startCue c false else x)
    { u.raiseEvent .incidentEnter object 0 reason with refusals := Vector.replicate 16 0 }
  let left (u : State) (object reason : Nat) : State :=
    { (List.finRange 32).foldl
        (fun x c => if (x.cues.get c).level = 7 ∧ (x.cues.get c).state ≠ .idle then
          ((x.setCue c { x.cues.get c with waiting := 0 }).listIf ((x.cues.get c).waiting != 0) (.cue c)).endCheck c .cancelled
          else x)
        (u.raiseEvent .incidentExit object 0 reason) with
      barred := 0, refusals := Vector.replicate 16 0 }
  (∀ (s : State) (m : Fin 16),
    (s.latch = true → s.setLatch m = s) ∧
    (s.latch = false → s.setLatch m =
      (if s.qualified then { s with latch := true } else entered { s with latch := true } m.val 2).list .status) ∧
    (s.latch = false ∨ m ≠ s.incidentMaster → s.clearLatch m = s) ∧
    (s.latch = true → m = s.incidentMaster → s.clearLatch m =
      (if s.qualified then { s with latch := false } else left { s with latch := false } m.val 2).list .status)) ∧
  (∀ (s : State) (high : Bool), s.AtRest →
    (s.resetLow = true → exec (.incidentLineChange high) s = .next (State.settle { s with line := high })) ∧
    (s.resetLow = false → exec (.incidentLineChange high) s = .next (State.settle { s with
      line := high
      qualTimer := if high = s.qualified then none else some (s.qualTimer.getD (s.timebase + 10000)) }))) ∧
  (∀ (s : State) (t : Nat), s.AtRest → s.resetLow = false → s.qualTimer = some t → t ≤ s.timebase →
    let u : State := { s with qualified := s.line, qualTimer := none, latch := s.latch || s.line }
    let was := s.latch || s.qualified
    let is := s.latch || s.line
    exec .qualificationTimerExpiry s = .next (State.settle
      ((if was = false ∧ is = true then entered u 0 1 else if was = true ∧ is = false then left u 0 1 else u).list .status)))

/-- R100, R102, R104, R64: a segment stalls when its activity timer expires, at any tick at or after its own (the model's
choice, log 3), is excluded at a hand-over that finds its consecutive misses at the miss limit, and each departure from
ACTIVE takes it out of the expected set of every slot outside FREE in which it is not DONE, after which the FILLING ones
among them are checked in ascending number (log 14). The Combiner takes the notices in the order given, before any other
command acts (log 44). That the status block, for a transition's event that is lost, is listed before the segment entry is
the model's choice (log 42). -/
def Obligations.SegmentsSupervised : Prop :=
  (∀ (s : State) (g : Fin 12), s.AtRest →
    let e := s.segments.get g
    (∀ t, e.state = .active → e.timer = some t → t ≤ s.timebase →
      let u : State := (s.setSegment g { e with state := .stalled, timer := none }).raiseEvent .segmentStalled (g.val + 1) 0 0
      exec (.activityTimerExpiry g) s =
        .next (State.settle (({ u with departures := [g] } : State).list (.segment g)))) ∧
    (g ∈ s.handovers →
      let s1 : State := { s with handovers := s.handovers.erase g }
      let reached := s.request.missLimit ≠ 0 ∧ s.request.missLimit ≤ e.consecutive
      let u : State := (s1.setSegment g { e with state := .excluded, timer := none }).raiseEvent .segmentExcluded (g.val + 1)
        0 0
      ((e.state = .offline ∨ e.state = .excluded ∨ ¬reached) →
        exec (.segmentExclusionHandover g) s = .next s1.settle) ∧
      (e.state = .active → reached → exec (.segmentExclusionHandover g) s =
        .next (State.settle (({ u with departures := [g] } : State).list (.segment g)))) ∧
      (e.state = .stalled → reached → exec (.segmentExclusionHandover g) s =
        .next (State.settle (u.list (.segment g)))))) ∧
  (∀ (s : State) (g : Fin 12) (before after : List (Fin 12)), s.departures = before ++ g :: after → g ∉ before →
    exec (.departureNotice g) s = .next (State.settle ((before ++ [g]).foldl State.takeDeparture s))) ∧
  (∀ (s : State) (g : Fin 12), g ∈ s.departures →
    let leaves (n : Fin 16) : Prop := (s.slots.get n).state ≠ .free ∧ g ∈ (s.slots.get n).expected ∧
      ((s.slots.get n).contribs.get g).state ≠ .done
    ∃ (u : State) (ns : List (Fin 16)),
      s.takeDeparture g = ns.foldl State.checkComplete u ∧
      u = { s with departures := s.departures.erase g, slots := u.slots, writeBackList := u.writeBackList } ∧
      ns.Pairwise (· < ·) ∧ (∀ n, n ∈ ns ↔ leaves n) ∧
      ∀ n, (leaves n → u.listed (.slot n) = true ∧ u.slots.get n =
          { s.slots.get n with expected := (s.slots.get n).expected.filter (fun x => x != g) }) ∧
        (¬leaves n → u.slots.get n = s.slots.get n)) ∧
  (∀ s : State, s.departures ≠ [] → s.giveNotices = State.settle (s.departures.foldl State.takeDeparture s) ∧
    s.giveNotices.departures = [])

/-! ## Promises of the whole part -/

/-- R159, R148, R25, R37, R40, R96, R99, R28, R158, R13: each of six of the promises of Safety.lean is kept by every step,
from every state in which it holds: no record stands twice on the write-back list; no master is barred in NORMAL; queues and
cache keep their bounds; window entries, segment entries and gains stay sound. FramesKept and CuesKept have the other
four. -/
def Obligations.PromisesKept : Prop :=
  ∀ s t : State, step s = .next t →
    (s.ListSound → t.ListSound) ∧ (s.BarSound → t.BarSound) ∧ (s.BoundSound → t.BoundSound) ∧
    (s.WindowSound → t.WindowSound) ∧ (s.SegmentSound → t.SegmentSound) ∧ (s.GainSound → t.GainSound)

/-- R49, R64: every step keeps the promises about the combine store: a frame is held by at most one slot and by no slot and
pending allocation at once; an expected set has no repeats, and each segment in it is ACTIVE, DONE, or about to leave it. -/
def Obligations.FramesKept : Prop :=
  ∀ s t : State, step s = .next t → (s.FrameSound → t.FrameSound) ∧ (s.ExpectSound → t.ExpectSound)

/-- R113, R115, R127, R128, R129: every step keeps the promises about cues: an IDLE cue is in no zone, the cues that are not
IDLE have tags of their own and levels from 1 to 7; a zone's stack falls in level from its top down and stands below its
active cue, with none it is empty, and the mask level is the active cue's. -/
def Obligations.CuesKept : Prop :=
  ∀ s t : State, step s = .next t → s.CueSound → t.CueSound ∧ (s.StackSound → t.StackSound)

/-- The promises of Safety.lean, all ten, hold right after reset. -/
def Obligations.PromisesAtReset : Prop :=
  State.reset.ListSound ∧ State.reset.BarSound ∧ State.reset.BoundSound ∧ State.reset.WindowSound ∧
    State.reset.SegmentSound ∧ State.reset.GainSound ∧ State.reset.FrameSound ∧ State.reset.ExpectSound ∧
    State.reset.CueSound ∧ State.reset.StackSound

/-- R150, R146: a barred master stays barred until the exit from INCIDENT or a hard reset: nothing else takes it off the
barred list, a soft reset included: no command at rest, no command that is about what the part does of itself next (a
control-region write among them), no departure notice, no tick, and nothing that the part does of itself. -/
def Obligations.MasterStaysBarred : Prop :=
  (∀ (c : Instr) (s t : State) (m : Fin 16), c ≠ .hardReset →
    (s.AtRest ∨ (∃ d, s.NextDue d ∧ s.Own c d) ∨ ∃ g ∈ s.departures, c = .departureNotice g) → exec c s = .next t →
    s.barred.getLsbD m.val = true → t.barred.getLsbD m.val = true ∨ t.incident = false) ∧
  (∀ (s t : State) (m : Fin 16), s.AtRest → s.pending = [] → step s = .next t →
    s.barred.getLsbD m.val = true → t.barred.getLsbD m.val = true) ∧
  (∀ (s : State) (d : Due) (m : Fin 16), s.NextDue d → s.barred.getLsbD m.val = true →
    (s.doDue d).barred.getLsbD m.val = true ∨ (s.doDue d).incident = false) ∧
  (∀ s : State, s.giveNotices.barred = s.barred)
end

