-- ==== Sys2Proof/Laws/State.lean ====
section
/-! SUPPORT. One lemma per field for each named update of the state, so that no later proof unfolds a record update; and
what reading a table back gives. -/

namespace Sys2Proof.Machine

/-! ## setPort -/

@[simp] theorem State.setPort_pending (s : State) (m : Fin 16) (p : MasterPort) : (s.setPort m p).pending = s.pending := rfl
@[simp] theorem State.setPort_resetLow (s : State) (m : Fin 16) (p : MasterPort) : (s.setPort m p).resetLow = s.resetLow := rfl
@[simp] theorem State.setPort_line (s : State) (m : Fin 16) (p : MasterPort) : (s.setPort m p).line = s.line := rfl
@[simp] theorem State.setPort_baseStraps (s : State) (m : Fin 16) (p : MasterPort) : (s.setPort m p).baseStraps = s.baseStraps := rfl
@[simp] theorem State.setPort_masterStraps (s : State) (m : Fin 16) (p : MasterPort) : (s.setPort m p).masterStraps = s.masterStraps := rfl
@[simp] theorem State.setPort_dividerStraps (s : State) (m : Fin 16) (p : MasterPort) : (s.setPort m p).dividerStraps = s.dividerStraps := rfl
@[simp] theorem State.setPort_timebase (s : State) (m : Fin 16) (p : MasterPort) : (s.setPort m p).timebase = s.timebase := rfl
@[simp] theorem State.setPort_portWaiting (s : State) (m : Fin 16) (p : MasterPort) : (s.setPort m p).portWaiting = s.portWaiting := rfl
@[simp] theorem State.setPort_due (s : State) (m : Fin 16) (p : MasterPort) : (s.setPort m p).due = s.due := rfl
@[simp] theorem State.setPort_responses (s : State) (m : Fin 16) (p : MasterPort) : (s.setPort m p).responses = s.responses := rfl
@[simp] theorem State.setPort_windows (s : State) (m : Fin 16) (p : MasterPort) : (s.setPort m p).windows = s.windows := rfl
@[simp] theorem State.setPort_cache (s : State) (m : Fin 16) (p : MasterPort) : (s.setPort m p).cache = s.cache := rfl
@[simp] theorem State.setPort_translations (s : State) (m : Fin 16) (p : MasterPort) : (s.setPort m p).translations = s.translations := rfl
@[simp] theorem State.setPort_translationWaits (s : State) (m : Fin 16) (p : MasterPort) : (s.setPort m p).translationWaits = s.translationWaits := rfl
@[simp] theorem State.setPort_fetch (s : State) (m : Fin 16) (p : MasterPort) : (s.setPort m p).fetch = s.fetch := rfl
@[simp] theorem State.setPort_hazards (s : State) (m : Fin 16) (p : MasterPort) : (s.setPort m p).hazards = s.hazards := rfl
@[simp] theorem State.setPort_services (s : State) (m : Fin 16) (p : MasterPort) : (s.setPort m p).services = s.services := rfl
@[simp] theorem State.setPort_segments (s : State) (m : Fin 16) (p : MasterPort) : (s.setPort m p).segments = s.segments := rfl
@[simp] theorem State.setPort_zones (s : State) (m : Fin 16) (p : MasterPort) : (s.setPort m p).zones = s.zones := rfl
@[simp] theorem State.setPort_cues (s : State) (m : Fin 16) (p : MasterPort) : (s.setPort m p).cues = s.cues := rfl
@[simp] theorem State.setPort_slots (s : State) (m : Fin 16) (p : MasterPort) : (s.setPort m p).slots = s.slots := rfl
@[simp] theorem State.setPort_allocs (s : State) (m : Fin 16) (p : MasterPort) : (s.setPort m p).allocs = s.allocs := rfl
@[simp] theorem State.setPort_staleBursts (s : State) (m : Fin 16) (p : MasterPort) : (s.setPort m p).staleBursts = s.staleBursts := rfl
@[simp] theorem State.setPort_handovers (s : State) (m : Fin 16) (p : MasterPort) : (s.setPort m p).handovers = s.handovers := rfl
@[simp] theorem State.setPort_departures (s : State) (m : Fin 16) (p : MasterPort) : (s.setPort m p).departures = s.departures := rfl
@[simp] theorem State.setPort_latch (s : State) (m : Fin 16) (p : MasterPort) : (s.setPort m p).latch = s.latch := rfl
@[simp] theorem State.setPort_qualified (s : State) (m : Fin 16) (p : MasterPort) : (s.setPort m p).qualified = s.qualified := rfl
@[simp] theorem State.setPort_qualTimer (s : State) (m : Fin 16) (p : MasterPort) : (s.setPort m p).qualTimer = s.qualTimer := rfl
@[simp] theorem State.setPort_refusals (s : State) (m : Fin 16) (p : MasterPort) : (s.setPort m p).refusals = s.refusals := rfl
@[simp] theorem State.setPort_barred (s : State) (m : Fin 16) (p : MasterPort) : (s.setPort m p).barred = s.barred := rfl
@[simp] theorem State.setPort_protectedWrites (s : State) (m : Fin 16) (p : MasterPort) : (s.setPort m p).protectedWrites = s.protectedWrites := rfl
@[simp] theorem State.setPort_request (s : State) (m : Fin 16) (p : MasterPort) : (s.setPort m p).request = s.request := rfl
@[simp] theorem State.setPort_writeBackList (s : State) (m : Fin 16) (p : MasterPort) : (s.setPort m p).writeBackList = s.writeBackList := rfl
@[simp] theorem State.setPort_writeBack (s : State) (m : Fin 16) (p : MasterPort) : (s.setPort m p).writeBack = s.writeBack := rfl
@[simp] theorem State.setPort_ready (s : State) (m : Fin 16) (p : MasterPort) : (s.setPort m p).ready = s.ready := rfl
@[simp] theorem State.setPort_writeOut (s : State) (m : Fin 16) (p : MasterPort) : (s.setPort m p).writeOut = s.writeOut := rfl
@[simp] theorem State.setPort_accessFault (s : State) (m : Fin 16) (p : MasterPort) : (s.setPort m p).accessFault = s.accessFault := rfl
@[simp] theorem State.setPort_memoryFault (s : State) (m : Fin 16) (p : MasterPort) : (s.setPort m p).memoryFault = s.memoryFault := rfl
@[simp] theorem State.setPort_lostFaults (s : State) (m : Fin 16) (p : MasterPort) : (s.setPort m p).lostFaults = s.lostFaults := rfl
@[simp] theorem State.setPort_producer (s : State) (m : Fin 16) (p : MasterPort) : (s.setPort m p).producer = s.producer := rfl
@[simp] theorem State.setPort_consumer (s : State) (m : Fin 16) (p : MasterPort) : (s.setPort m p).consumer = s.consumer := rfl
@[simp] theorem State.setPort_events (s : State) (m : Fin 16) (p : MasterPort) : (s.setPort m p).events = s.events := rfl
@[simp] theorem State.setPort_eventInFlight (s : State) (m : Fin 16) (p : MasterPort) : (s.setPort m p).eventInFlight = s.eventInFlight := rfl
@[simp] theorem State.setPort_lostEvents (s : State) (m : Fin 16) (p : MasterPort) : (s.setPort m p).lostEvents = s.lostEvents := rfl

/-! ## setStage -/

@[simp] theorem State.setStage_pending (s : State) (m : Fin 16) (st : Stage) : (s.setStage m st).pending = s.pending := rfl
@[simp] theorem State.setStage_resetLow (s : State) (m : Fin 16) (st : Stage) : (s.setStage m st).resetLow = s.resetLow := rfl
@[simp] theorem State.setStage_line (s : State) (m : Fin 16) (st : Stage) : (s.setStage m st).line = s.line := rfl
@[simp] theorem State.setStage_baseStraps (s : State) (m : Fin 16) (st : Stage) : (s.setStage m st).baseStraps = s.baseStraps := rfl
@[simp] theorem State.setStage_masterStraps (s : State) (m : Fin 16) (st : Stage) : (s.setStage m st).masterStraps = s.masterStraps := rfl
@[simp] theorem State.setStage_dividerStraps (s : State) (m : Fin 16) (st : Stage) : (s.setStage m st).dividerStraps = s.dividerStraps := rfl
@[simp] theorem State.setStage_timebase (s : State) (m : Fin 16) (st : Stage) : (s.setStage m st).timebase = s.timebase := rfl
@[simp] theorem State.setStage_portWaiting (s : State) (m : Fin 16) (st : Stage) : (s.setStage m st).portWaiting = s.portWaiting := rfl
@[simp] theorem State.setStage_due (s : State) (m : Fin 16) (st : Stage) : (s.setStage m st).due = s.due := rfl
@[simp] theorem State.setStage_responses (s : State) (m : Fin 16) (st : Stage) : (s.setStage m st).responses = s.responses := rfl
@[simp] theorem State.setStage_windows (s : State) (m : Fin 16) (st : Stage) : (s.setStage m st).windows = s.windows := rfl
@[simp] theorem State.setStage_cache (s : State) (m : Fin 16) (st : Stage) : (s.setStage m st).cache = s.cache := rfl
@[simp] theorem State.setStage_translations (s : State) (m : Fin 16) (st : Stage) : (s.setStage m st).translations = s.translations := rfl
@[simp] theorem State.setStage_translationWaits (s : State) (m : Fin 16) (st : Stage) : (s.setStage m st).translationWaits = s.translationWaits := rfl
@[simp] theorem State.setStage_fetch (s : State) (m : Fin 16) (st : Stage) : (s.setStage m st).fetch = s.fetch := rfl
@[simp] theorem State.setStage_hazards (s : State) (m : Fin 16) (st : Stage) : (s.setStage m st).hazards = s.hazards := rfl
@[simp] theorem State.setStage_services (s : State) (m : Fin 16) (st : Stage) : (s.setStage m st).services = s.services := rfl
@[simp] theorem State.setStage_segments (s : State) (m : Fin 16) (st : Stage) : (s.setStage m st).segments = s.segments := rfl
@[simp] theorem State.setStage_zones (s : State) (m : Fin 16) (st : Stage) : (s.setStage m st).zones = s.zones := rfl
@[simp] theorem State.setStage_cues (s : State) (m : Fin 16) (st : Stage) : (s.setStage m st).cues = s.cues := rfl
@[simp] theorem State.setStage_slots (s : State) (m : Fin 16) (st : Stage) : (s.setStage m st).slots = s.slots := rfl
@[simp] theorem State.setStage_allocs (s : State) (m : Fin 16) (st : Stage) : (s.setStage m st).allocs = s.allocs := rfl
@[simp] theorem State.setStage_staleBursts (s : State) (m : Fin 16) (st : Stage) : (s.setStage m st).staleBursts = s.staleBursts := rfl
@[simp] theorem State.setStage_handovers (s : State) (m : Fin 16) (st : Stage) : (s.setStage m st).handovers = s.handovers := rfl
@[simp] theorem State.setStage_departures (s : State) (m : Fin 16) (st : Stage) : (s.setStage m st).departures = s.departures := rfl
@[simp] theorem State.setStage_latch (s : State) (m : Fin 16) (st : Stage) : (s.setStage m st).latch = s.latch := rfl
@[simp] theorem State.setStage_qualified (s : State) (m : Fin 16) (st : Stage) : (s.setStage m st).qualified = s.qualified := rfl
@[simp] theorem State.setStage_qualTimer (s : State) (m : Fin 16) (st : Stage) : (s.setStage m st).qualTimer = s.qualTimer := rfl
@[simp] theorem State.setStage_refusals (s : State) (m : Fin 16) (st : Stage) : (s.setStage m st).refusals = s.refusals := rfl
@[simp] theorem State.setStage_barred (s : State) (m : Fin 16) (st : Stage) : (s.setStage m st).barred = s.barred := rfl
@[simp] theorem State.setStage_protectedWrites (s : State) (m : Fin 16) (st : Stage) : (s.setStage m st).protectedWrites = s.protectedWrites := rfl
@[simp] theorem State.setStage_request (s : State) (m : Fin 16) (st : Stage) : (s.setStage m st).request = s.request := rfl
@[simp] theorem State.setStage_writeBackList (s : State) (m : Fin 16) (st : Stage) : (s.setStage m st).writeBackList = s.writeBackList := rfl
@[simp] theorem State.setStage_writeBack (s : State) (m : Fin 16) (st : Stage) : (s.setStage m st).writeBack = s.writeBack := rfl
@[simp] theorem State.setStage_ready (s : State) (m : Fin 16) (st : Stage) : (s.setStage m st).ready = s.ready := rfl
@[simp] theorem State.setStage_writeOut (s : State) (m : Fin 16) (st : Stage) : (s.setStage m st).writeOut = s.writeOut := rfl
@[simp] theorem State.setStage_accessFault (s : State) (m : Fin 16) (st : Stage) : (s.setStage m st).accessFault = s.accessFault := rfl
@[simp] theorem State.setStage_memoryFault (s : State) (m : Fin 16) (st : Stage) : (s.setStage m st).memoryFault = s.memoryFault := rfl
@[simp] theorem State.setStage_lostFaults (s : State) (m : Fin 16) (st : Stage) : (s.setStage m st).lostFaults = s.lostFaults := rfl
@[simp] theorem State.setStage_producer (s : State) (m : Fin 16) (st : Stage) : (s.setStage m st).producer = s.producer := rfl
@[simp] theorem State.setStage_consumer (s : State) (m : Fin 16) (st : Stage) : (s.setStage m st).consumer = s.consumer := rfl
@[simp] theorem State.setStage_events (s : State) (m : Fin 16) (st : Stage) : (s.setStage m st).events = s.events := rfl
@[simp] theorem State.setStage_eventInFlight (s : State) (m : Fin 16) (st : Stage) : (s.setStage m st).eventInFlight = s.eventInFlight := rfl
@[simp] theorem State.setStage_lostEvents (s : State) (m : Fin 16) (st : Stage) : (s.setStage m st).lostEvents = s.lostEvents := rfl

/-! ## setWindow -/

@[simp] theorem State.setWindow_pending (s : State) (w : Fin 16) (e : WindowEntry) : (s.setWindow w e).pending = s.pending := rfl
@[simp] theorem State.setWindow_resetLow (s : State) (w : Fin 16) (e : WindowEntry) : (s.setWindow w e).resetLow = s.resetLow := rfl
@[simp] theorem State.setWindow_line (s : State) (w : Fin 16) (e : WindowEntry) : (s.setWindow w e).line = s.line := rfl
@[simp] theorem State.setWindow_baseStraps (s : State) (w : Fin 16) (e : WindowEntry) : (s.setWindow w e).baseStraps = s.baseStraps := rfl
@[simp] theorem State.setWindow_masterStraps (s : State) (w : Fin 16) (e : WindowEntry) : (s.setWindow w e).masterStraps = s.masterStraps := rfl
@[simp] theorem State.setWindow_dividerStraps (s : State) (w : Fin 16) (e : WindowEntry) : (s.setWindow w e).dividerStraps = s.dividerStraps := rfl
@[simp] theorem State.setWindow_timebase (s : State) (w : Fin 16) (e : WindowEntry) : (s.setWindow w e).timebase = s.timebase := rfl
@[simp] theorem State.setWindow_portWaiting (s : State) (w : Fin 16) (e : WindowEntry) : (s.setWindow w e).portWaiting = s.portWaiting := rfl
@[simp] theorem State.setWindow_ports (s : State) (w : Fin 16) (e : WindowEntry) : (s.setWindow w e).ports = s.ports := rfl
@[simp] theorem State.setWindow_due (s : State) (w : Fin 16) (e : WindowEntry) : (s.setWindow w e).due = s.due := rfl
@[simp] theorem State.setWindow_responses (s : State) (w : Fin 16) (e : WindowEntry) : (s.setWindow w e).responses = s.responses := rfl
@[simp] theorem State.setWindow_cache (s : State) (w : Fin 16) (e : WindowEntry) : (s.setWindow w e).cache = s.cache := rfl
@[simp] theorem State.setWindow_translations (s : State) (w : Fin 16) (e : WindowEntry) : (s.setWindow w e).translations = s.translations := rfl
@[simp] theorem State.setWindow_translationWaits (s : State) (w : Fin 16) (e : WindowEntry) : (s.setWindow w e).translationWaits = s.translationWaits := rfl
@[simp] theorem State.setWindow_fetch (s : State) (w : Fin 16) (e : WindowEntry) : (s.setWindow w e).fetch = s.fetch := rfl
@[simp] theorem State.setWindow_hazards (s : State) (w : Fin 16) (e : WindowEntry) : (s.setWindow w e).hazards = s.hazards := rfl
@[simp] theorem State.setWindow_services (s : State) (w : Fin 16) (e : WindowEntry) : (s.setWindow w e).services = s.services := rfl
@[simp] theorem State.setWindow_segments (s : State) (w : Fin 16) (e : WindowEntry) : (s.setWindow w e).segments = s.segments := rfl
@[simp] theorem State.setWindow_zones (s : State) (w : Fin 16) (e : WindowEntry) : (s.setWindow w e).zones = s.zones := rfl
@[simp] theorem State.setWindow_cues (s : State) (w : Fin 16) (e : WindowEntry) : (s.setWindow w e).cues = s.cues := rfl
@[simp] theorem State.setWindow_slots (s : State) (w : Fin 16) (e : WindowEntry) : (s.setWindow w e).slots = s.slots := rfl
@[simp] theorem State.setWindow_allocs (s : State) (w : Fin 16) (e : WindowEntry) : (s.setWindow w e).allocs = s.allocs := rfl
@[simp] theorem State.setWindow_staleBursts (s : State) (w : Fin 16) (e : WindowEntry) : (s.setWindow w e).staleBursts = s.staleBursts := rfl
@[simp] theorem State.setWindow_handovers (s : State) (w : Fin 16) (e : WindowEntry) : (s.setWindow w e).handovers = s.handovers := rfl
@[simp] theorem State.setWindow_departures (s : State) (w : Fin 16) (e : WindowEntry) : (s.setWindow w e).departures = s.departures := rfl
@[simp] theorem State.setWindow_latch (s : State) (w : Fin 16) (e : WindowEntry) : (s.setWindow w e).latch = s.latch := rfl
@[simp] theorem State.setWindow_qualified (s : State) (w : Fin 16) (e : WindowEntry) : (s.setWindow w e).qualified = s.qualified := rfl
@[simp] theorem State.setWindow_qualTimer (s : State) (w : Fin 16) (e : WindowEntry) : (s.setWindow w e).qualTimer = s.qualTimer := rfl
@[simp] theorem State.setWindow_refusals (s : State) (w : Fin 16) (e : WindowEntry) : (s.setWindow w e).refusals = s.refusals := rfl
@[simp] theorem State.setWindow_barred (s : State) (w : Fin 16) (e : WindowEntry) : (s.setWindow w e).barred = s.barred := rfl
@[simp] theorem State.setWindow_protectedWrites (s : State) (w : Fin 16) (e : WindowEntry) : (s.setWindow w e).protectedWrites = s.protectedWrites := rfl
@[simp] theorem State.setWindow_request (s : State) (w : Fin 16) (e : WindowEntry) : (s.setWindow w e).request = s.request := rfl
@[simp] theorem State.setWindow_writeBackList (s : State) (w : Fin 16) (e : WindowEntry) : (s.setWindow w e).writeBackList = s.writeBackList := rfl
@[simp] theorem State.setWindow_writeBack (s : State) (w : Fin 16) (e : WindowEntry) : (s.setWindow w e).writeBack = s.writeBack := rfl
@[simp] theorem State.setWindow_ready (s : State) (w : Fin 16) (e : WindowEntry) : (s.setWindow w e).ready = s.ready := rfl
@[simp] theorem State.setWindow_writeOut (s : State) (w : Fin 16) (e : WindowEntry) : (s.setWindow w e).writeOut = s.writeOut := rfl
@[simp] theorem State.setWindow_accessFault (s : State) (w : Fin 16) (e : WindowEntry) : (s.setWindow w e).accessFault = s.accessFault := rfl
@[simp] theorem State.setWindow_memoryFault (s : State) (w : Fin 16) (e : WindowEntry) : (s.setWindow w e).memoryFault = s.memoryFault := rfl
@[simp] theorem State.setWindow_lostFaults (s : State) (w : Fin 16) (e : WindowEntry) : (s.setWindow w e).lostFaults = s.lostFaults := rfl
@[simp] theorem State.setWindow_producer (s : State) (w : Fin 16) (e : WindowEntry) : (s.setWindow w e).producer = s.producer := rfl
@[simp] theorem State.setWindow_consumer (s : State) (w : Fin 16) (e : WindowEntry) : (s.setWindow w e).consumer = s.consumer := rfl
@[simp] theorem State.setWindow_events (s : State) (w : Fin 16) (e : WindowEntry) : (s.setWindow w e).events = s.events := rfl
@[simp] theorem State.setWindow_eventInFlight (s : State) (w : Fin 16) (e : WindowEntry) : (s.setWindow w e).eventInFlight = s.eventInFlight := rfl
@[simp] theorem State.setWindow_lostEvents (s : State) (w : Fin 16) (e : WindowEntry) : (s.setWindow w e).lostEvents = s.lostEvents := rfl

/-! ## setService -/

@[simp] theorem State.setService_pending (s : State) (v : Fin 8) (e : ServiceEntry) : (s.setService v e).pending = s.pending := rfl
@[simp] theorem State.setService_resetLow (s : State) (v : Fin 8) (e : ServiceEntry) : (s.setService v e).resetLow = s.resetLow := rfl
@[simp] theorem State.setService_line (s : State) (v : Fin 8) (e : ServiceEntry) : (s.setService v e).line = s.line := rfl
@[simp] theorem State.setService_baseStraps (s : State) (v : Fin 8) (e : ServiceEntry) : (s.setService v e).baseStraps = s.baseStraps := rfl
@[simp] theorem State.setService_masterStraps (s : State) (v : Fin 8) (e : ServiceEntry) : (s.setService v e).masterStraps = s.masterStraps := rfl
@[simp] theorem State.setService_dividerStraps (s : State) (v : Fin 8) (e : ServiceEntry) : (s.setService v e).dividerStraps = s.dividerStraps := rfl
@[simp] theorem State.setService_timebase (s : State) (v : Fin 8) (e : ServiceEntry) : (s.setService v e).timebase = s.timebase := rfl
@[simp] theorem State.setService_portWaiting (s : State) (v : Fin 8) (e : ServiceEntry) : (s.setService v e).portWaiting = s.portWaiting := rfl
@[simp] theorem State.setService_ports (s : State) (v : Fin 8) (e : ServiceEntry) : (s.setService v e).ports = s.ports := rfl
@[simp] theorem State.setService_due (s : State) (v : Fin 8) (e : ServiceEntry) : (s.setService v e).due = s.due := rfl
@[simp] theorem State.setService_responses (s : State) (v : Fin 8) (e : ServiceEntry) : (s.setService v e).responses = s.responses := rfl
@[simp] theorem State.setService_windows (s : State) (v : Fin 8) (e : ServiceEntry) : (s.setService v e).windows = s.windows := rfl
@[simp] theorem State.setService_cache (s : State) (v : Fin 8) (e : ServiceEntry) : (s.setService v e).cache = s.cache := rfl
@[simp] theorem State.setService_translations (s : State) (v : Fin 8) (e : ServiceEntry) : (s.setService v e).translations = s.translations := rfl
@[simp] theorem State.setService_translationWaits (s : State) (v : Fin 8) (e : ServiceEntry) : (s.setService v e).translationWaits = s.translationWaits := rfl
@[simp] theorem State.setService_fetch (s : State) (v : Fin 8) (e : ServiceEntry) : (s.setService v e).fetch = s.fetch := rfl
@[simp] theorem State.setService_hazards (s : State) (v : Fin 8) (e : ServiceEntry) : (s.setService v e).hazards = s.hazards := rfl
@[simp] theorem State.setService_segments (s : State) (v : Fin 8) (e : ServiceEntry) : (s.setService v e).segments = s.segments := rfl
@[simp] theorem State.setService_zones (s : State) (v : Fin 8) (e : ServiceEntry) : (s.setService v e).zones = s.zones := rfl
@[simp] theorem State.setService_cues (s : State) (v : Fin 8) (e : ServiceEntry) : (s.setService v e).cues = s.cues := rfl
@[simp] theorem State.setService_slots (s : State) (v : Fin 8) (e : ServiceEntry) : (s.setService v e).slots = s.slots := rfl
@[simp] theorem State.setService_allocs (s : State) (v : Fin 8) (e : ServiceEntry) : (s.setService v e).allocs = s.allocs := rfl
@[simp] theorem State.setService_staleBursts (s : State) (v : Fin 8) (e : ServiceEntry) : (s.setService v e).staleBursts = s.staleBursts := rfl
@[simp] theorem State.setService_handovers (s : State) (v : Fin 8) (e : ServiceEntry) : (s.setService v e).handovers = s.handovers := rfl
@[simp] theorem State.setService_departures (s : State) (v : Fin 8) (e : ServiceEntry) : (s.setService v e).departures = s.departures := rfl
@[simp] theorem State.setService_latch (s : State) (v : Fin 8) (e : ServiceEntry) : (s.setService v e).latch = s.latch := rfl
@[simp] theorem State.setService_qualified (s : State) (v : Fin 8) (e : ServiceEntry) : (s.setService v e).qualified = s.qualified := rfl
@[simp] theorem State.setService_qualTimer (s : State) (v : Fin 8) (e : ServiceEntry) : (s.setService v e).qualTimer = s.qualTimer := rfl
@[simp] theorem State.setService_refusals (s : State) (v : Fin 8) (e : ServiceEntry) : (s.setService v e).refusals = s.refusals := rfl
@[simp] theorem State.setService_barred (s : State) (v : Fin 8) (e : ServiceEntry) : (s.setService v e).barred = s.barred := rfl
@[simp] theorem State.setService_protectedWrites (s : State) (v : Fin 8) (e : ServiceEntry) : (s.setService v e).protectedWrites = s.protectedWrites := rfl
@[simp] theorem State.setService_request (s : State) (v : Fin 8) (e : ServiceEntry) : (s.setService v e).request = s.request := rfl
@[simp] theorem State.setService_writeBackList (s : State) (v : Fin 8) (e : ServiceEntry) : (s.setService v e).writeBackList = s.writeBackList := rfl
@[simp] theorem State.setService_writeBack (s : State) (v : Fin 8) (e : ServiceEntry) : (s.setService v e).writeBack = s.writeBack := rfl
@[simp] theorem State.setService_ready (s : State) (v : Fin 8) (e : ServiceEntry) : (s.setService v e).ready = s.ready := rfl
@[simp] theorem State.setService_writeOut (s : State) (v : Fin 8) (e : ServiceEntry) : (s.setService v e).writeOut = s.writeOut := rfl
@[simp] theorem State.setService_accessFault (s : State) (v : Fin 8) (e : ServiceEntry) : (s.setService v e).accessFault = s.accessFault := rfl
@[simp] theorem State.setService_memoryFault (s : State) (v : Fin 8) (e : ServiceEntry) : (s.setService v e).memoryFault = s.memoryFault := rfl
@[simp] theorem State.setService_lostFaults (s : State) (v : Fin 8) (e : ServiceEntry) : (s.setService v e).lostFaults = s.lostFaults := rfl
@[simp] theorem State.setService_producer (s : State) (v : Fin 8) (e : ServiceEntry) : (s.setService v e).producer = s.producer := rfl
@[simp] theorem State.setService_consumer (s : State) (v : Fin 8) (e : ServiceEntry) : (s.setService v e).consumer = s.consumer := rfl
@[simp] theorem State.setService_events (s : State) (v : Fin 8) (e : ServiceEntry) : (s.setService v e).events = s.events := rfl
@[simp] theorem State.setService_eventInFlight (s : State) (v : Fin 8) (e : ServiceEntry) : (s.setService v e).eventInFlight = s.eventInFlight := rfl
@[simp] theorem State.setService_lostEvents (s : State) (v : Fin 8) (e : ServiceEntry) : (s.setService v e).lostEvents = s.lostEvents := rfl

/-! ## setSegment -/

@[simp] theorem State.setSegment_pending (s : State) (g : Fin 12) (e : SegmentEntry) : (s.setSegment g e).pending = s.pending := rfl
@[simp] theorem State.setSegment_resetLow (s : State) (g : Fin 12) (e : SegmentEntry) : (s.setSegment g e).resetLow = s.resetLow := rfl
@[simp] theorem State.setSegment_line (s : State) (g : Fin 12) (e : SegmentEntry) : (s.setSegment g e).line = s.line := rfl
@[simp] theorem State.setSegment_baseStraps (s : State) (g : Fin 12) (e : SegmentEntry) : (s.setSegment g e).baseStraps = s.baseStraps := rfl
@[simp] theorem State.setSegment_masterStraps (s : State) (g : Fin 12) (e : SegmentEntry) : (s.setSegment g e).masterStraps = s.masterStraps := rfl
@[simp] theorem State.setSegment_dividerStraps (s : State) (g : Fin 12) (e : SegmentEntry) : (s.setSegment g e).dividerStraps = s.dividerStraps := rfl
@[simp] theorem State.setSegment_timebase (s : State) (g : Fin 12) (e : SegmentEntry) : (s.setSegment g e).timebase = s.timebase := rfl
@[simp] theorem State.setSegment_portWaiting (s : State) (g : Fin 12) (e : SegmentEntry) : (s.setSegment g e).portWaiting = s.portWaiting := rfl
@[simp] theorem State.setSegment_ports (s : State) (g : Fin 12) (e : SegmentEntry) : (s.setSegment g e).ports = s.ports := rfl
@[simp] theorem State.setSegment_due (s : State) (g : Fin 12) (e : SegmentEntry) : (s.setSegment g e).due = s.due := rfl
@[simp] theorem State.setSegment_responses (s : State) (g : Fin 12) (e : SegmentEntry) : (s.setSegment g e).responses = s.responses := rfl
@[simp] theorem State.setSegment_windows (s : State) (g : Fin 12) (e : SegmentEntry) : (s.setSegment g e).windows = s.windows := rfl
@[simp] theorem State.setSegment_cache (s : State) (g : Fin 12) (e : SegmentEntry) : (s.setSegment g e).cache = s.cache := rfl
@[simp] theorem State.setSegment_translations (s : State) (g : Fin 12) (e : SegmentEntry) : (s.setSegment g e).translations = s.translations := rfl
@[simp] theorem State.setSegment_translationWaits (s : State) (g : Fin 12) (e : SegmentEntry) : (s.setSegment g e).translationWaits = s.translationWaits := rfl
@[simp] theorem State.setSegment_fetch (s : State) (g : Fin 12) (e : SegmentEntry) : (s.setSegment g e).fetch = s.fetch := rfl
@[simp] theorem State.setSegment_hazards (s : State) (g : Fin 12) (e : SegmentEntry) : (s.setSegment g e).hazards = s.hazards := rfl
@[simp] theorem State.setSegment_services (s : State) (g : Fin 12) (e : SegmentEntry) : (s.setSegment g e).services = s.services := rfl
@[simp] theorem State.setSegment_zones (s : State) (g : Fin 12) (e : SegmentEntry) : (s.setSegment g e).zones = s.zones := rfl
@[simp] theorem State.setSegment_cues (s : State) (g : Fin 12) (e : SegmentEntry) : (s.setSegment g e).cues = s.cues := rfl
@[simp] theorem State.setSegment_slots (s : State) (g : Fin 12) (e : SegmentEntry) : (s.setSegment g e).slots = s.slots := rfl
@[simp] theorem State.setSegment_allocs (s : State) (g : Fin 12) (e : SegmentEntry) : (s.setSegment g e).allocs = s.allocs := rfl
@[simp] theorem State.setSegment_staleBursts (s : State) (g : Fin 12) (e : SegmentEntry) : (s.setSegment g e).staleBursts = s.staleBursts := rfl
@[simp] theorem State.setSegment_handovers (s : State) (g : Fin 12) (e : SegmentEntry) : (s.setSegment g e).handovers = s.handovers := rfl
@[simp] theorem State.setSegment_departures (s : State) (g : Fin 12) (e : SegmentEntry) : (s.setSegment g e).departures = s.departures := rfl
@[simp] theorem State.setSegment_latch (s : State) (g : Fin 12) (e : SegmentEntry) : (s.setSegment g e).latch = s.latch := rfl
@[simp] theorem State.setSegment_qualified (s : State) (g : Fin 12) (e : SegmentEntry) : (s.setSegment g e).qualified = s.qualified := rfl
@[simp] theorem State.setSegment_qualTimer (s : State) (g : Fin 12) (e : SegmentEntry) : (s.setSegment g e).qualTimer = s.qualTimer := rfl
@[simp] theorem State.setSegment_refusals (s : State) (g : Fin 12) (e : SegmentEntry) : (s.setSegment g e).refusals = s.refusals := rfl
@[simp] theorem State.setSegment_barred (s : State) (g : Fin 12) (e : SegmentEntry) : (s.setSegment g e).barred = s.barred := rfl
@[simp] theorem State.setSegment_protectedWrites (s : State) (g : Fin 12) (e : SegmentEntry) : (s.setSegment g e).protectedWrites = s.protectedWrites := rfl
@[simp] theorem State.setSegment_request (s : State) (g : Fin 12) (e : SegmentEntry) : (s.setSegment g e).request = s.request := rfl
@[simp] theorem State.setSegment_writeBackList (s : State) (g : Fin 12) (e : SegmentEntry) : (s.setSegment g e).writeBackList = s.writeBackList := rfl
@[simp] theorem State.setSegment_writeBack (s : State) (g : Fin 12) (e : SegmentEntry) : (s.setSegment g e).writeBack = s.writeBack := rfl
@[simp] theorem State.setSegment_ready (s : State) (g : Fin 12) (e : SegmentEntry) : (s.setSegment g e).ready = s.ready := rfl
@[simp] theorem State.setSegment_writeOut (s : State) (g : Fin 12) (e : SegmentEntry) : (s.setSegment g e).writeOut = s.writeOut := rfl
@[simp] theorem State.setSegment_accessFault (s : State) (g : Fin 12) (e : SegmentEntry) : (s.setSegment g e).accessFault = s.accessFault := rfl
@[simp] theorem State.setSegment_memoryFault (s : State) (g : Fin 12) (e : SegmentEntry) : (s.setSegment g e).memoryFault = s.memoryFault := rfl
@[simp] theorem State.setSegment_lostFaults (s : State) (g : Fin 12) (e : SegmentEntry) : (s.setSegment g e).lostFaults = s.lostFaults := rfl
@[simp] theorem State.setSegment_producer (s : State) (g : Fin 12) (e : SegmentEntry) : (s.setSegment g e).producer = s.producer := rfl
@[simp] theorem State.setSegment_consumer (s : State) (g : Fin 12) (e : SegmentEntry) : (s.setSegment g e).consumer = s.consumer := rfl
@[simp] theorem State.setSegment_events (s : State) (g : Fin 12) (e : SegmentEntry) : (s.setSegment g e).events = s.events := rfl
@[simp] theorem State.setSegment_eventInFlight (s : State) (g : Fin 12) (e : SegmentEntry) : (s.setSegment g e).eventInFlight = s.eventInFlight := rfl
@[simp] theorem State.setSegment_lostEvents (s : State) (g : Fin 12) (e : SegmentEntry) : (s.setSegment g e).lostEvents = s.lostEvents := rfl

/-! ## setZone -/

@[simp] theorem State.setZone_pending (s : State) (z : Fin 8) (r : ZoneRecord) : (s.setZone z r).pending = s.pending := rfl
@[simp] theorem State.setZone_resetLow (s : State) (z : Fin 8) (r : ZoneRecord) : (s.setZone z r).resetLow = s.resetLow := rfl
@[simp] theorem State.setZone_line (s : State) (z : Fin 8) (r : ZoneRecord) : (s.setZone z r).line = s.line := rfl
@[simp] theorem State.setZone_baseStraps (s : State) (z : Fin 8) (r : ZoneRecord) : (s.setZone z r).baseStraps = s.baseStraps := rfl
@[simp] theorem State.setZone_masterStraps (s : State) (z : Fin 8) (r : ZoneRecord) : (s.setZone z r).masterStraps = s.masterStraps := rfl
@[simp] theorem State.setZone_dividerStraps (s : State) (z : Fin 8) (r : ZoneRecord) : (s.setZone z r).dividerStraps = s.dividerStraps := rfl
@[simp] theorem State.setZone_timebase (s : State) (z : Fin 8) (r : ZoneRecord) : (s.setZone z r).timebase = s.timebase := rfl
@[simp] theorem State.setZone_portWaiting (s : State) (z : Fin 8) (r : ZoneRecord) : (s.setZone z r).portWaiting = s.portWaiting := rfl
@[simp] theorem State.setZone_ports (s : State) (z : Fin 8) (r : ZoneRecord) : (s.setZone z r).ports = s.ports := rfl
@[simp] theorem State.setZone_due (s : State) (z : Fin 8) (r : ZoneRecord) : (s.setZone z r).due = s.due := rfl
@[simp] theorem State.setZone_responses (s : State) (z : Fin 8) (r : ZoneRecord) : (s.setZone z r).responses = s.responses := rfl
@[simp] theorem State.setZone_windows (s : State) (z : Fin 8) (r : ZoneRecord) : (s.setZone z r).windows = s.windows := rfl
@[simp] theorem State.setZone_cache (s : State) (z : Fin 8) (r : ZoneRecord) : (s.setZone z r).cache = s.cache := rfl
@[simp] theorem State.setZone_translations (s : State) (z : Fin 8) (r : ZoneRecord) : (s.setZone z r).translations = s.translations := rfl
@[simp] theorem State.setZone_translationWaits (s : State) (z : Fin 8) (r : ZoneRecord) : (s.setZone z r).translationWaits = s.translationWaits := rfl
@[simp] theorem State.setZone_fetch (s : State) (z : Fin 8) (r : ZoneRecord) : (s.setZone z r).fetch = s.fetch := rfl
@[simp] theorem State.setZone_hazards (s : State) (z : Fin 8) (r : ZoneRecord) : (s.setZone z r).hazards = s.hazards := rfl
@[simp] theorem State.setZone_services (s : State) (z : Fin 8) (r : ZoneRecord) : (s.setZone z r).services = s.services := rfl
@[simp] theorem State.setZone_segments (s : State) (z : Fin 8) (r : ZoneRecord) : (s.setZone z r).segments = s.segments := rfl
@[simp] theorem State.setZone_cues (s : State) (z : Fin 8) (r : ZoneRecord) : (s.setZone z r).cues = s.cues := rfl
@[simp] theorem State.setZone_slots (s : State) (z : Fin 8) (r : ZoneRecord) : (s.setZone z r).slots = s.slots := rfl
@[simp] theorem State.setZone_allocs (s : State) (z : Fin 8) (r : ZoneRecord) : (s.setZone z r).allocs = s.allocs := rfl
@[simp] theorem State.setZone_staleBursts (s : State) (z : Fin 8) (r : ZoneRecord) : (s.setZone z r).staleBursts = s.staleBursts := rfl
@[simp] theorem State.setZone_handovers (s : State) (z : Fin 8) (r : ZoneRecord) : (s.setZone z r).handovers = s.handovers := rfl
@[simp] theorem State.setZone_departures (s : State) (z : Fin 8) (r : ZoneRecord) : (s.setZone z r).departures = s.departures := rfl
@[simp] theorem State.setZone_latch (s : State) (z : Fin 8) (r : ZoneRecord) : (s.setZone z r).latch = s.latch := rfl
@[simp] theorem State.setZone_qualified (s : State) (z : Fin 8) (r : ZoneRecord) : (s.setZone z r).qualified = s.qualified := rfl
@[simp] theorem State.setZone_qualTimer (s : State) (z : Fin 8) (r : ZoneRecord) : (s.setZone z r).qualTimer = s.qualTimer := rfl
@[simp] theorem State.setZone_refusals (s : State) (z : Fin 8) (r : ZoneRecord) : (s.setZone z r).refusals = s.refusals := rfl
@[simp] theorem State.setZone_barred (s : State) (z : Fin 8) (r : ZoneRecord) : (s.setZone z r).barred = s.barred := rfl
@[simp] theorem State.setZone_protectedWrites (s : State) (z : Fin 8) (r : ZoneRecord) : (s.setZone z r).protectedWrites = s.protectedWrites := rfl
@[simp] theorem State.setZone_request (s : State) (z : Fin 8) (r : ZoneRecord) : (s.setZone z r).request = s.request := rfl
@[simp] theorem State.setZone_writeBackList (s : State) (z : Fin 8) (r : ZoneRecord) : (s.setZone z r).writeBackList = s.writeBackList := rfl
@[simp] theorem State.setZone_writeBack (s : State) (z : Fin 8) (r : ZoneRecord) : (s.setZone z r).writeBack = s.writeBack := rfl
@[simp] theorem State.setZone_ready (s : State) (z : Fin 8) (r : ZoneRecord) : (s.setZone z r).ready = s.ready := rfl
@[simp] theorem State.setZone_writeOut (s : State) (z : Fin 8) (r : ZoneRecord) : (s.setZone z r).writeOut = s.writeOut := rfl
@[simp] theorem State.setZone_accessFault (s : State) (z : Fin 8) (r : ZoneRecord) : (s.setZone z r).accessFault = s.accessFault := rfl
@[simp] theorem State.setZone_memoryFault (s : State) (z : Fin 8) (r : ZoneRecord) : (s.setZone z r).memoryFault = s.memoryFault := rfl
@[simp] theorem State.setZone_lostFaults (s : State) (z : Fin 8) (r : ZoneRecord) : (s.setZone z r).lostFaults = s.lostFaults := rfl
@[simp] theorem State.setZone_producer (s : State) (z : Fin 8) (r : ZoneRecord) : (s.setZone z r).producer = s.producer := rfl
@[simp] theorem State.setZone_consumer (s : State) (z : Fin 8) (r : ZoneRecord) : (s.setZone z r).consumer = s.consumer := rfl
@[simp] theorem State.setZone_events (s : State) (z : Fin 8) (r : ZoneRecord) : (s.setZone z r).events = s.events := rfl
@[simp] theorem State.setZone_eventInFlight (s : State) (z : Fin 8) (r : ZoneRecord) : (s.setZone z r).eventInFlight = s.eventInFlight := rfl
@[simp] theorem State.setZone_lostEvents (s : State) (z : Fin 8) (r : ZoneRecord) : (s.setZone z r).lostEvents = s.lostEvents := rfl

/-! ## setCue -/

@[simp] theorem State.setCue_pending (s : State) (c : Fin 32) (e : CueEntry) : (s.setCue c e).pending = s.pending := rfl
@[simp] theorem State.setCue_resetLow (s : State) (c : Fin 32) (e : CueEntry) : (s.setCue c e).resetLow = s.resetLow := rfl
@[simp] theorem State.setCue_line (s : State) (c : Fin 32) (e : CueEntry) : (s.setCue c e).line = s.line := rfl
@[simp] theorem State.setCue_baseStraps (s : State) (c : Fin 32) (e : CueEntry) : (s.setCue c e).baseStraps = s.baseStraps := rfl
@[simp] theorem State.setCue_masterStraps (s : State) (c : Fin 32) (e : CueEntry) : (s.setCue c e).masterStraps = s.masterStraps := rfl
@[simp] theorem State.setCue_dividerStraps (s : State) (c : Fin 32) (e : CueEntry) : (s.setCue c e).dividerStraps = s.dividerStraps := rfl
@[simp] theorem State.setCue_timebase (s : State) (c : Fin 32) (e : CueEntry) : (s.setCue c e).timebase = s.timebase := rfl
@[simp] theorem State.setCue_portWaiting (s : State) (c : Fin 32) (e : CueEntry) : (s.setCue c e).portWaiting = s.portWaiting := rfl
@[simp] theorem State.setCue_ports (s : State) (c : Fin 32) (e : CueEntry) : (s.setCue c e).ports = s.ports := rfl
@[simp] theorem State.setCue_due (s : State) (c : Fin 32) (e : CueEntry) : (s.setCue c e).due = s.due := rfl
@[simp] theorem State.setCue_responses (s : State) (c : Fin 32) (e : CueEntry) : (s.setCue c e).responses = s.responses := rfl
@[simp] theorem State.setCue_windows (s : State) (c : Fin 32) (e : CueEntry) : (s.setCue c e).windows = s.windows := rfl
@[simp] theorem State.setCue_cache (s : State) (c : Fin 32) (e : CueEntry) : (s.setCue c e).cache = s.cache := rfl
@[simp] theorem State.setCue_translations (s : State) (c : Fin 32) (e : CueEntry) : (s.setCue c e).translations = s.translations := rfl
@[simp] theorem State.setCue_translationWaits (s : State) (c : Fin 32) (e : CueEntry) : (s.setCue c e).translationWaits = s.translationWaits := rfl
@[simp] theorem State.setCue_fetch (s : State) (c : Fin 32) (e : CueEntry) : (s.setCue c e).fetch = s.fetch := rfl
@[simp] theorem State.setCue_hazards (s : State) (c : Fin 32) (e : CueEntry) : (s.setCue c e).hazards = s.hazards := rfl
@[simp] theorem State.setCue_services (s : State) (c : Fin 32) (e : CueEntry) : (s.setCue c e).services = s.services := rfl
@[simp] theorem State.setCue_segments (s : State) (c : Fin 32) (e : CueEntry) : (s.setCue c e).segments = s.segments := rfl
@[simp] theorem State.setCue_zones (s : State) (c : Fin 32) (e : CueEntry) : (s.setCue c e).zones = s.zones := rfl
@[simp] theorem State.setCue_slots (s : State) (c : Fin 32) (e : CueEntry) : (s.setCue c e).slots = s.slots := rfl
@[simp] theorem State.setCue_allocs (s : State) (c : Fin 32) (e : CueEntry) : (s.setCue c e).allocs = s.allocs := rfl
@[simp] theorem State.setCue_staleBursts (s : State) (c : Fin 32) (e : CueEntry) : (s.setCue c e).staleBursts = s.staleBursts := rfl
@[simp] theorem State.setCue_handovers (s : State) (c : Fin 32) (e : CueEntry) : (s.setCue c e).handovers = s.handovers := rfl
@[simp] theorem State.setCue_departures (s : State) (c : Fin 32) (e : CueEntry) : (s.setCue c e).departures = s.departures := rfl
@[simp] theorem State.setCue_latch (s : State) (c : Fin 32) (e : CueEntry) : (s.setCue c e).latch = s.latch := rfl
@[simp] theorem State.setCue_qualified (s : State) (c : Fin 32) (e : CueEntry) : (s.setCue c e).qualified = s.qualified := rfl
@[simp] theorem State.setCue_qualTimer (s : State) (c : Fin 32) (e : CueEntry) : (s.setCue c e).qualTimer = s.qualTimer := rfl
@[simp] theorem State.setCue_refusals (s : State) (c : Fin 32) (e : CueEntry) : (s.setCue c e).refusals = s.refusals := rfl
@[simp] theorem State.setCue_barred (s : State) (c : Fin 32) (e : CueEntry) : (s.setCue c e).barred = s.barred := rfl
@[simp] theorem State.setCue_protectedWrites (s : State) (c : Fin 32) (e : CueEntry) : (s.setCue c e).protectedWrites = s.protectedWrites := rfl
@[simp] theorem State.setCue_request (s : State) (c : Fin 32) (e : CueEntry) : (s.setCue c e).request = s.request := rfl
@[simp] theorem State.setCue_writeBackList (s : State) (c : Fin 32) (e : CueEntry) : (s.setCue c e).writeBackList = s.writeBackList := rfl
@[simp] theorem State.setCue_writeBack (s : State) (c : Fin 32) (e : CueEntry) : (s.setCue c e).writeBack = s.writeBack := rfl
@[simp] theorem State.setCue_ready (s : State) (c : Fin 32) (e : CueEntry) : (s.setCue c e).ready = s.ready := rfl
@[simp] theorem State.setCue_writeOut (s : State) (c : Fin 32) (e : CueEntry) : (s.setCue c e).writeOut = s.writeOut := rfl
@[simp] theorem State.setCue_accessFault (s : State) (c : Fin 32) (e : CueEntry) : (s.setCue c e).accessFault = s.accessFault := rfl
@[simp] theorem State.setCue_memoryFault (s : State) (c : Fin 32) (e : CueEntry) : (s.setCue c e).memoryFault = s.memoryFault := rfl
@[simp] theorem State.setCue_lostFaults (s : State) (c : Fin 32) (e : CueEntry) : (s.setCue c e).lostFaults = s.lostFaults := rfl
@[simp] theorem State.setCue_producer (s : State) (c : Fin 32) (e : CueEntry) : (s.setCue c e).producer = s.producer := rfl
@[simp] theorem State.setCue_consumer (s : State) (c : Fin 32) (e : CueEntry) : (s.setCue c e).consumer = s.consumer := rfl
@[simp] theorem State.setCue_events (s : State) (c : Fin 32) (e : CueEntry) : (s.setCue c e).events = s.events := rfl
@[simp] theorem State.setCue_eventInFlight (s : State) (c : Fin 32) (e : CueEntry) : (s.setCue c e).eventInFlight = s.eventInFlight := rfl
@[simp] theorem State.setCue_lostEvents (s : State) (c : Fin 32) (e : CueEntry) : (s.setCue c e).lostEvents = s.lostEvents := rfl

/-! ## setSlot -/

@[simp] theorem State.setSlot_pending (s : State) (n : Fin 16) (t : Slot) : (s.setSlot n t).pending = s.pending := rfl
@[simp] theorem State.setSlot_resetLow (s : State) (n : Fin 16) (t : Slot) : (s.setSlot n t).resetLow = s.resetLow := rfl
@[simp] theorem State.setSlot_line (s : State) (n : Fin 16) (t : Slot) : (s.setSlot n t).line = s.line := rfl
@[simp] theorem State.setSlot_baseStraps (s : State) (n : Fin 16) (t : Slot) : (s.setSlot n t).baseStraps = s.baseStraps := rfl
@[simp] theorem State.setSlot_masterStraps (s : State) (n : Fin 16) (t : Slot) : (s.setSlot n t).masterStraps = s.masterStraps := rfl
@[simp] theorem State.setSlot_dividerStraps (s : State) (n : Fin 16) (t : Slot) : (s.setSlot n t).dividerStraps = s.dividerStraps := rfl
@[simp] theorem State.setSlot_timebase (s : State) (n : Fin 16) (t : Slot) : (s.setSlot n t).timebase = s.timebase := rfl
@[simp] theorem State.setSlot_portWaiting (s : State) (n : Fin 16) (t : Slot) : (s.setSlot n t).portWaiting = s.portWaiting := rfl
@[simp] theorem State.setSlot_ports (s : State) (n : Fin 16) (t : Slot) : (s.setSlot n t).ports = s.ports := rfl
@[simp] theorem State.setSlot_due (s : State) (n : Fin 16) (t : Slot) : (s.setSlot n t).due = s.due := rfl
@[simp] theorem State.setSlot_responses (s : State) (n : Fin 16) (t : Slot) : (s.setSlot n t).responses = s.responses := rfl
@[simp] theorem State.setSlot_windows (s : State) (n : Fin 16) (t : Slot) : (s.setSlot n t).windows = s.windows := rfl
@[simp] theorem State.setSlot_cache (s : State) (n : Fin 16) (t : Slot) : (s.setSlot n t).cache = s.cache := rfl
@[simp] theorem State.setSlot_translations (s : State) (n : Fin 16) (t : Slot) : (s.setSlot n t).translations = s.translations := rfl
@[simp] theorem State.setSlot_translationWaits (s : State) (n : Fin 16) (t : Slot) : (s.setSlot n t).translationWaits = s.translationWaits := rfl
@[simp] theorem State.setSlot_fetch (s : State) (n : Fin 16) (t : Slot) : (s.setSlot n t).fetch = s.fetch := rfl
@[simp] theorem State.setSlot_hazards (s : State) (n : Fin 16) (t : Slot) : (s.setSlot n t).hazards = s.hazards := rfl
@[simp] theorem State.setSlot_services (s : State) (n : Fin 16) (t : Slot) : (s.setSlot n t).services = s.services := rfl
@[simp] theorem State.setSlot_segments (s : State) (n : Fin 16) (t : Slot) : (s.setSlot n t).segments = s.segments := rfl
@[simp] theorem State.setSlot_zones (s : State) (n : Fin 16) (t : Slot) : (s.setSlot n t).zones = s.zones := rfl
@[simp] theorem State.setSlot_cues (s : State) (n : Fin 16) (t : Slot) : (s.setSlot n t).cues = s.cues := rfl
@[simp] theorem State.setSlot_allocs (s : State) (n : Fin 16) (t : Slot) : (s.setSlot n t).allocs = s.allocs := rfl
@[simp] theorem State.setSlot_staleBursts (s : State) (n : Fin 16) (t : Slot) : (s.setSlot n t).staleBursts = s.staleBursts := rfl
@[simp] theorem State.setSlot_handovers (s : State) (n : Fin 16) (t : Slot) : (s.setSlot n t).handovers = s.handovers := rfl
@[simp] theorem State.setSlot_departures (s : State) (n : Fin 16) (t : Slot) : (s.setSlot n t).departures = s.departures := rfl
@[simp] theorem State.setSlot_latch (s : State) (n : Fin 16) (t : Slot) : (s.setSlot n t).latch = s.latch := rfl
@[simp] theorem State.setSlot_qualified (s : State) (n : Fin 16) (t : Slot) : (s.setSlot n t).qualified = s.qualified := rfl
@[simp] theorem State.setSlot_qualTimer (s : State) (n : Fin 16) (t : Slot) : (s.setSlot n t).qualTimer = s.qualTimer := rfl
@[simp] theorem State.setSlot_refusals (s : State) (n : Fin 16) (t : Slot) : (s.setSlot n t).refusals = s.refusals := rfl
@[simp] theorem State.setSlot_barred (s : State) (n : Fin 16) (t : Slot) : (s.setSlot n t).barred = s.barred := rfl
@[simp] theorem State.setSlot_protectedWrites (s : State) (n : Fin 16) (t : Slot) : (s.setSlot n t).protectedWrites = s.protectedWrites := rfl
@[simp] theorem State.setSlot_request (s : State) (n : Fin 16) (t : Slot) : (s.setSlot n t).request = s.request := rfl
@[simp] theorem State.setSlot_writeBackList (s : State) (n : Fin 16) (t : Slot) : (s.setSlot n t).writeBackList = s.writeBackList := rfl
@[simp] theorem State.setSlot_writeBack (s : State) (n : Fin 16) (t : Slot) : (s.setSlot n t).writeBack = s.writeBack := rfl
@[simp] theorem State.setSlot_ready (s : State) (n : Fin 16) (t : Slot) : (s.setSlot n t).ready = s.ready := rfl
@[simp] theorem State.setSlot_writeOut (s : State) (n : Fin 16) (t : Slot) : (s.setSlot n t).writeOut = s.writeOut := rfl
@[simp] theorem State.setSlot_accessFault (s : State) (n : Fin 16) (t : Slot) : (s.setSlot n t).accessFault = s.accessFault := rfl
@[simp] theorem State.setSlot_memoryFault (s : State) (n : Fin 16) (t : Slot) : (s.setSlot n t).memoryFault = s.memoryFault := rfl
@[simp] theorem State.setSlot_lostFaults (s : State) (n : Fin 16) (t : Slot) : (s.setSlot n t).lostFaults = s.lostFaults := rfl
@[simp] theorem State.setSlot_producer (s : State) (n : Fin 16) (t : Slot) : (s.setSlot n t).producer = s.producer := rfl
@[simp] theorem State.setSlot_consumer (s : State) (n : Fin 16) (t : Slot) : (s.setSlot n t).consumer = s.consumer := rfl
@[simp] theorem State.setSlot_events (s : State) (n : Fin 16) (t : Slot) : (s.setSlot n t).events = s.events := rfl
@[simp] theorem State.setSlot_eventInFlight (s : State) (n : Fin 16) (t : Slot) : (s.setSlot n t).eventInFlight = s.eventInFlight := rfl
@[simp] theorem State.setSlot_lostEvents (s : State) (n : Fin 16) (t : Slot) : (s.setSlot n t).lostEvents = s.lostEvents := rfl

/-! ## listBytes -/

@[simp] theorem State.listBytes_pending (s : State) (id : RecordId) (l : List Nat) : (s.listBytes id l).pending = s.pending := rfl
@[simp] theorem State.listBytes_resetLow (s : State) (id : RecordId) (l : List Nat) : (s.listBytes id l).resetLow = s.resetLow := rfl
@[simp] theorem State.listBytes_line (s : State) (id : RecordId) (l : List Nat) : (s.listBytes id l).line = s.line := rfl
@[simp] theorem State.listBytes_baseStraps (s : State) (id : RecordId) (l : List Nat) : (s.listBytes id l).baseStraps = s.baseStraps := rfl
@[simp] theorem State.listBytes_masterStraps (s : State) (id : RecordId) (l : List Nat) : (s.listBytes id l).masterStraps = s.masterStraps := rfl
@[simp] theorem State.listBytes_dividerStraps (s : State) (id : RecordId) (l : List Nat) : (s.listBytes id l).dividerStraps = s.dividerStraps := rfl
@[simp] theorem State.listBytes_timebase (s : State) (id : RecordId) (l : List Nat) : (s.listBytes id l).timebase = s.timebase := rfl
@[simp] theorem State.listBytes_portWaiting (s : State) (id : RecordId) (l : List Nat) : (s.listBytes id l).portWaiting = s.portWaiting := rfl
@[simp] theorem State.listBytes_ports (s : State) (id : RecordId) (l : List Nat) : (s.listBytes id l).ports = s.ports := rfl
@[simp] theorem State.listBytes_due (s : State) (id : RecordId) (l : List Nat) : (s.listBytes id l).due = s.due := rfl
@[simp] theorem State.listBytes_responses (s : State) (id : RecordId) (l : List Nat) : (s.listBytes id l).responses = s.responses := rfl
@[simp] theorem State.listBytes_windows (s : State) (id : RecordId) (l : List Nat) : (s.listBytes id l).windows = s.windows := rfl
@[simp] theorem State.listBytes_cache (s : State) (id : RecordId) (l : List Nat) : (s.listBytes id l).cache = s.cache := rfl
@[simp] theorem State.listBytes_translations (s : State) (id : RecordId) (l : List Nat) : (s.listBytes id l).translations = s.translations := rfl
@[simp] theorem State.listBytes_translationWaits (s : State) (id : RecordId) (l : List Nat) : (s.listBytes id l).translationWaits = s.translationWaits := rfl
@[simp] theorem State.listBytes_fetch (s : State) (id : RecordId) (l : List Nat) : (s.listBytes id l).fetch = s.fetch := rfl
@[simp] theorem State.listBytes_hazards (s : State) (id : RecordId) (l : List Nat) : (s.listBytes id l).hazards = s.hazards := rfl
@[simp] theorem State.listBytes_services (s : State) (id : RecordId) (l : List Nat) : (s.listBytes id l).services = s.services := rfl
@[simp] theorem State.listBytes_segments (s : State) (id : RecordId) (l : List Nat) : (s.listBytes id l).segments = s.segments := rfl
@[simp] theorem State.listBytes_zones (s : State) (id : RecordId) (l : List Nat) : (s.listBytes id l).zones = s.zones := rfl
@[simp] theorem State.listBytes_cues (s : State) (id : RecordId) (l : List Nat) : (s.listBytes id l).cues = s.cues := rfl
@[simp] theorem State.listBytes_slots (s : State) (id : RecordId) (l : List Nat) : (s.listBytes id l).slots = s.slots := rfl
@[simp] theorem State.listBytes_allocs (s : State) (id : RecordId) (l : List Nat) : (s.listBytes id l).allocs = s.allocs := rfl
@[simp] theorem State.listBytes_staleBursts (s : State) (id : RecordId) (l : List Nat) : (s.listBytes id l).staleBursts = s.staleBursts := rfl
@[simp] theorem State.listBytes_handovers (s : State) (id : RecordId) (l : List Nat) : (s.listBytes id l).handovers = s.handovers := rfl
@[simp] theorem State.listBytes_departures (s : State) (id : RecordId) (l : List Nat) : (s.listBytes id l).departures = s.departures := rfl
@[simp] theorem State.listBytes_latch (s : State) (id : RecordId) (l : List Nat) : (s.listBytes id l).latch = s.latch := rfl
@[simp] theorem State.listBytes_qualified (s : State) (id : RecordId) (l : List Nat) : (s.listBytes id l).qualified = s.qualified := rfl
@[simp] theorem State.listBytes_qualTimer (s : State) (id : RecordId) (l : List Nat) : (s.listBytes id l).qualTimer = s.qualTimer := rfl
@[simp] theorem State.listBytes_refusals (s : State) (id : RecordId) (l : List Nat) : (s.listBytes id l).refusals = s.refusals := rfl
@[simp] theorem State.listBytes_barred (s : State) (id : RecordId) (l : List Nat) : (s.listBytes id l).barred = s.barred := rfl
@[simp] theorem State.listBytes_protectedWrites (s : State) (id : RecordId) (l : List Nat) : (s.listBytes id l).protectedWrites = s.protectedWrites := rfl
@[simp] theorem State.listBytes_request (s : State) (id : RecordId) (l : List Nat) : (s.listBytes id l).request = s.request := rfl
@[simp] theorem State.listBytes_writeBack (s : State) (id : RecordId) (l : List Nat) : (s.listBytes id l).writeBack = s.writeBack := rfl
@[simp] theorem State.listBytes_ready (s : State) (id : RecordId) (l : List Nat) : (s.listBytes id l).ready = s.ready := rfl
@[simp] theorem State.listBytes_writeOut (s : State) (id : RecordId) (l : List Nat) : (s.listBytes id l).writeOut = s.writeOut := rfl
@[simp] theorem State.listBytes_accessFault (s : State) (id : RecordId) (l : List Nat) : (s.listBytes id l).accessFault = s.accessFault := rfl
@[simp] theorem State.listBytes_memoryFault (s : State) (id : RecordId) (l : List Nat) : (s.listBytes id l).memoryFault = s.memoryFault := rfl
@[simp] theorem State.listBytes_lostFaults (s : State) (id : RecordId) (l : List Nat) : (s.listBytes id l).lostFaults = s.lostFaults := rfl
@[simp] theorem State.listBytes_producer (s : State) (id : RecordId) (l : List Nat) : (s.listBytes id l).producer = s.producer := rfl
@[simp] theorem State.listBytes_consumer (s : State) (id : RecordId) (l : List Nat) : (s.listBytes id l).consumer = s.consumer := rfl
@[simp] theorem State.listBytes_events (s : State) (id : RecordId) (l : List Nat) : (s.listBytes id l).events = s.events := rfl
@[simp] theorem State.listBytes_eventInFlight (s : State) (id : RecordId) (l : List Nat) : (s.listBytes id l).eventInFlight = s.eventInFlight := rfl
@[simp] theorem State.listBytes_lostEvents (s : State) (id : RecordId) (l : List Nat) : (s.listBytes id l).lostEvents = s.lostEvents := rfl

/-! ## list -/

@[simp] theorem State.list_pending (s : State) (id : RecordId) : (s.list id).pending = s.pending := rfl
@[simp] theorem State.list_resetLow (s : State) (id : RecordId) : (s.list id).resetLow = s.resetLow := rfl
@[simp] theorem State.list_line (s : State) (id : RecordId) : (s.list id).line = s.line := rfl
@[simp] theorem State.list_baseStraps (s : State) (id : RecordId) : (s.list id).baseStraps = s.baseStraps := rfl
@[simp] theorem State.list_masterStraps (s : State) (id : RecordId) : (s.list id).masterStraps = s.masterStraps := rfl
@[simp] theorem State.list_dividerStraps (s : State) (id : RecordId) : (s.list id).dividerStraps = s.dividerStraps := rfl
@[simp] theorem State.list_timebase (s : State) (id : RecordId) : (s.list id).timebase = s.timebase := rfl
@[simp] theorem State.list_portWaiting (s : State) (id : RecordId) : (s.list id).portWaiting = s.portWaiting := rfl
@[simp] theorem State.list_ports (s : State) (id : RecordId) : (s.list id).ports = s.ports := rfl
@[simp] theorem State.list_due (s : State) (id : RecordId) : (s.list id).due = s.due := rfl
@[simp] theorem State.list_responses (s : State) (id : RecordId) : (s.list id).responses = s.responses := rfl
@[simp] theorem State.list_windows (s : State) (id : RecordId) : (s.list id).windows = s.windows := rfl
@[simp] theorem State.list_cache (s : State) (id : RecordId) : (s.list id).cache = s.cache := rfl
@[simp] theorem State.list_translations (s : State) (id : RecordId) : (s.list id).translations = s.translations := rfl
@[simp] theorem State.list_translationWaits (s : State) (id : RecordId) : (s.list id).translationWaits = s.translationWaits := rfl
@[simp] theorem State.list_fetch (s : State) (id : RecordId) : (s.list id).fetch = s.fetch := rfl
@[simp] theorem State.list_hazards (s : State) (id : RecordId) : (s.list id).hazards = s.hazards := rfl
@[simp] theorem State.list_services (s : State) (id : RecordId) : (s.list id).services = s.services := rfl
@[simp] theorem State.list_segments (s : State) (id : RecordId) : (s.list id).segments = s.segments := rfl
@[simp] theorem State.list_zones (s : State) (id : RecordId) : (s.list id).zones = s.zones := rfl
@[simp] theorem State.list_cues (s : State) (id : RecordId) : (s.list id).cues = s.cues := rfl
@[simp] theorem State.list_slots (s : State) (id : RecordId) : (s.list id).slots = s.slots := rfl
@[simp] theorem State.list_allocs (s : State) (id : RecordId) : (s.list id).allocs = s.allocs := rfl
@[simp] theorem State.list_staleBursts (s : State) (id : RecordId) : (s.list id).staleBursts = s.staleBursts := rfl
@[simp] theorem State.list_handovers (s : State) (id : RecordId) : (s.list id).handovers = s.handovers := rfl
@[simp] theorem State.list_departures (s : State) (id : RecordId) : (s.list id).departures = s.departures := rfl
@[simp] theorem State.list_latch (s : State) (id : RecordId) : (s.list id).latch = s.latch := rfl
@[simp] theorem State.list_qualified (s : State) (id : RecordId) : (s.list id).qualified = s.qualified := rfl
@[simp] theorem State.list_qualTimer (s : State) (id : RecordId) : (s.list id).qualTimer = s.qualTimer := rfl
@[simp] theorem State.list_refusals (s : State) (id : RecordId) : (s.list id).refusals = s.refusals := rfl
@[simp] theorem State.list_barred (s : State) (id : RecordId) : (s.list id).barred = s.barred := rfl
@[simp] theorem State.list_protectedWrites (s : State) (id : RecordId) : (s.list id).protectedWrites = s.protectedWrites := rfl
@[simp] theorem State.list_request (s : State) (id : RecordId) : (s.list id).request = s.request := rfl
@[simp] theorem State.list_writeBack (s : State) (id : RecordId) : (s.list id).writeBack = s.writeBack := rfl
@[simp] theorem State.list_ready (s : State) (id : RecordId) : (s.list id).ready = s.ready := rfl
@[simp] theorem State.list_writeOut (s : State) (id : RecordId) : (s.list id).writeOut = s.writeOut := rfl
@[simp] theorem State.list_accessFault (s : State) (id : RecordId) : (s.list id).accessFault = s.accessFault := rfl
@[simp] theorem State.list_memoryFault (s : State) (id : RecordId) : (s.list id).memoryFault = s.memoryFault := rfl
@[simp] theorem State.list_lostFaults (s : State) (id : RecordId) : (s.list id).lostFaults = s.lostFaults := rfl
@[simp] theorem State.list_producer (s : State) (id : RecordId) : (s.list id).producer = s.producer := rfl
@[simp] theorem State.list_consumer (s : State) (id : RecordId) : (s.list id).consumer = s.consumer := rfl
@[simp] theorem State.list_events (s : State) (id : RecordId) : (s.list id).events = s.events := rfl
@[simp] theorem State.list_eventInFlight (s : State) (id : RecordId) : (s.list id).eventInFlight = s.eventInFlight := rfl
@[simp] theorem State.list_lostEvents (s : State) (id : RecordId) : (s.list id).lostEvents = s.lostEvents := rfl

/-! ## listIf -/

@[simp] theorem State.listIf_pending (s : State) (b : Bool) (id : RecordId) : (s.listIf b id).pending = s.pending := by unfold State.listIf; split <;> rfl
@[simp] theorem State.listIf_resetLow (s : State) (b : Bool) (id : RecordId) : (s.listIf b id).resetLow = s.resetLow := by unfold State.listIf; split <;> rfl
@[simp] theorem State.listIf_line (s : State) (b : Bool) (id : RecordId) : (s.listIf b id).line = s.line := by unfold State.listIf; split <;> rfl
@[simp] theorem State.listIf_baseStraps (s : State) (b : Bool) (id : RecordId) : (s.listIf b id).baseStraps = s.baseStraps := by unfold State.listIf; split <;> rfl
@[simp] theorem State.listIf_masterStraps (s : State) (b : Bool) (id : RecordId) : (s.listIf b id).masterStraps = s.masterStraps := by unfold State.listIf; split <;> rfl
@[simp] theorem State.listIf_dividerStraps (s : State) (b : Bool) (id : RecordId) : (s.listIf b id).dividerStraps = s.dividerStraps := by unfold State.listIf; split <;> rfl
@[simp] theorem State.listIf_timebase (s : State) (b : Bool) (id : RecordId) : (s.listIf b id).timebase = s.timebase := by unfold State.listIf; split <;> rfl
@[simp] theorem State.listIf_portWaiting (s : State) (b : Bool) (id : RecordId) : (s.listIf b id).portWaiting = s.portWaiting := by unfold State.listIf; split <;> rfl
@[simp] theorem State.listIf_ports (s : State) (b : Bool) (id : RecordId) : (s.listIf b id).ports = s.ports := by unfold State.listIf; split <;> rfl
@[simp] theorem State.listIf_due (s : State) (b : Bool) (id : RecordId) : (s.listIf b id).due = s.due := by unfold State.listIf; split <;> rfl
@[simp] theorem State.listIf_responses (s : State) (b : Bool) (id : RecordId) : (s.listIf b id).responses = s.responses := by unfold State.listIf; split <;> rfl
@[simp] theorem State.listIf_windows (s : State) (b : Bool) (id : RecordId) : (s.listIf b id).windows = s.windows := by unfold State.listIf; split <;> rfl
@[simp] theorem State.listIf_cache (s : State) (b : Bool) (id : RecordId) : (s.listIf b id).cache = s.cache := by unfold State.listIf; split <;> rfl
@[simp] theorem State.listIf_translations (s : State) (b : Bool) (id : RecordId) : (s.listIf b id).translations = s.translations := by unfold State.listIf; split <;> rfl
@[simp] theorem State.listIf_translationWaits (s : State) (b : Bool) (id : RecordId) : (s.listIf b id).translationWaits = s.translationWaits := by unfold State.listIf; split <;> rfl
@[simp] theorem State.listIf_fetch (s : State) (b : Bool) (id : RecordId) : (s.listIf b id).fetch = s.fetch := by unfold State.listIf; split <;> rfl
@[simp] theorem State.listIf_hazards (s : State) (b : Bool) (id : RecordId) : (s.listIf b id).hazards = s.hazards := by unfold State.listIf; split <;> rfl
@[simp] theorem State.listIf_services (s : State) (b : Bool) (id : RecordId) : (s.listIf b id).services = s.services := by unfold State.listIf; split <;> rfl
@[simp] theorem State.listIf_segments (s : State) (b : Bool) (id : RecordId) : (s.listIf b id).segments = s.segments := by unfold State.listIf; split <;> rfl
@[simp] theorem State.listIf_zones (s : State) (b : Bool) (id : RecordId) : (s.listIf b id).zones = s.zones := by unfold State.listIf; split <;> rfl
@[simp] theorem State.listIf_cues (s : State) (b : Bool) (id : RecordId) : (s.listIf b id).cues = s.cues := by unfold State.listIf; split <;> rfl
@[simp] theorem State.listIf_slots (s : State) (b : Bool) (id : RecordId) : (s.listIf b id).slots = s.slots := by unfold State.listIf; split <;> rfl
@[simp] theorem State.listIf_allocs (s : State) (b : Bool) (id : RecordId) : (s.listIf b id).allocs = s.allocs := by unfold State.listIf; split <;> rfl
@[simp] theorem State.listIf_staleBursts (s : State) (b : Bool) (id : RecordId) : (s.listIf b id).staleBursts = s.staleBursts := by unfold State.listIf; split <;> rfl
@[simp] theorem State.listIf_handovers (s : State) (b : Bool) (id : RecordId) : (s.listIf b id).handovers = s.handovers := by unfold State.listIf; split <;> rfl
@[simp] theorem State.listIf_departures (s : State) (b : Bool) (id : RecordId) : (s.listIf b id).departures = s.departures := by unfold State.listIf; split <;> rfl
@[simp] theorem State.listIf_latch (s : State) (b : Bool) (id : RecordId) : (s.listIf b id).latch = s.latch := by unfold State.listIf; split <;> rfl
@[simp] theorem State.listIf_qualified (s : State) (b : Bool) (id : RecordId) : (s.listIf b id).qualified = s.qualified := by unfold State.listIf; split <;> rfl
@[simp] theorem State.listIf_qualTimer (s : State) (b : Bool) (id : RecordId) : (s.listIf b id).qualTimer = s.qualTimer := by unfold State.listIf; split <;> rfl
@[simp] theorem State.listIf_refusals (s : State) (b : Bool) (id : RecordId) : (s.listIf b id).refusals = s.refusals := by unfold State.listIf; split <;> rfl
@[simp] theorem State.listIf_barred (s : State) (b : Bool) (id : RecordId) : (s.listIf b id).barred = s.barred := by unfold State.listIf; split <;> rfl
@[simp] theorem State.listIf_protectedWrites (s : State) (b : Bool) (id : RecordId) : (s.listIf b id).protectedWrites = s.protectedWrites := by unfold State.listIf; split <;> rfl
@[simp] theorem State.listIf_request (s : State) (b : Bool) (id : RecordId) : (s.listIf b id).request = s.request := by unfold State.listIf; split <;> rfl
@[simp] theorem State.listIf_writeBack (s : State) (b : Bool) (id : RecordId) : (s.listIf b id).writeBack = s.writeBack := by unfold State.listIf; split <;> rfl
@[simp] theorem State.listIf_ready (s : State) (b : Bool) (id : RecordId) : (s.listIf b id).ready = s.ready := by unfold State.listIf; split <;> rfl
@[simp] theorem State.listIf_writeOut (s : State) (b : Bool) (id : RecordId) : (s.listIf b id).writeOut = s.writeOut := by unfold State.listIf; split <;> rfl
@[simp] theorem State.listIf_accessFault (s : State) (b : Bool) (id : RecordId) : (s.listIf b id).accessFault = s.accessFault := by unfold State.listIf; split <;> rfl
@[simp] theorem State.listIf_memoryFault (s : State) (b : Bool) (id : RecordId) : (s.listIf b id).memoryFault = s.memoryFault := by unfold State.listIf; split <;> rfl
@[simp] theorem State.listIf_lostFaults (s : State) (b : Bool) (id : RecordId) : (s.listIf b id).lostFaults = s.lostFaults := by unfold State.listIf; split <;> rfl
@[simp] theorem State.listIf_producer (s : State) (b : Bool) (id : RecordId) : (s.listIf b id).producer = s.producer := by unfold State.listIf; split <;> rfl
@[simp] theorem State.listIf_consumer (s : State) (b : Bool) (id : RecordId) : (s.listIf b id).consumer = s.consumer := by unfold State.listIf; split <;> rfl
@[simp] theorem State.listIf_events (s : State) (b : Bool) (id : RecordId) : (s.listIf b id).events = s.events := by unfold State.listIf; split <;> rfl
@[simp] theorem State.listIf_eventInFlight (s : State) (b : Bool) (id : RecordId) : (s.listIf b id).eventInFlight = s.eventInFlight := by unfold State.listIf; split <;> rfl
@[simp] theorem State.listIf_lostEvents (s : State) (b : Bool) (id : RecordId) : (s.listIf b id).lostEvents = s.lostEvents := by unfold State.listIf; split <;> rfl

/-! ## enqueue -/

@[simp] theorem State.enqueue_pending (s : State) (a : Access) : (s.enqueue a).pending = s.pending := rfl
@[simp] theorem State.enqueue_resetLow (s : State) (a : Access) : (s.enqueue a).resetLow = s.resetLow := rfl
@[simp] theorem State.enqueue_line (s : State) (a : Access) : (s.enqueue a).line = s.line := rfl
@[simp] theorem State.enqueue_baseStraps (s : State) (a : Access) : (s.enqueue a).baseStraps = s.baseStraps := rfl
@[simp] theorem State.enqueue_masterStraps (s : State) (a : Access) : (s.enqueue a).masterStraps = s.masterStraps := rfl
@[simp] theorem State.enqueue_dividerStraps (s : State) (a : Access) : (s.enqueue a).dividerStraps = s.dividerStraps := rfl
@[simp] theorem State.enqueue_timebase (s : State) (a : Access) : (s.enqueue a).timebase = s.timebase := rfl
@[simp] theorem State.enqueue_portWaiting (s : State) (a : Access) : (s.enqueue a).portWaiting = s.portWaiting := rfl
@[simp] theorem State.enqueue_due (s : State) (a : Access) : (s.enqueue a).due = s.due ++ (if (s.ports.get a.master).queue.isEmpty then [.take a.master] else []) := rfl
@[simp] theorem State.enqueue_responses (s : State) (a : Access) : (s.enqueue a).responses = s.responses := rfl
@[simp] theorem State.enqueue_windows (s : State) (a : Access) : (s.enqueue a).windows = s.windows := rfl
@[simp] theorem State.enqueue_cache (s : State) (a : Access) : (s.enqueue a).cache = s.cache := rfl
@[simp] theorem State.enqueue_translations (s : State) (a : Access) : (s.enqueue a).translations = s.translations := rfl
@[simp] theorem State.enqueue_translationWaits (s : State) (a : Access) : (s.enqueue a).translationWaits = s.translationWaits := rfl
@[simp] theorem State.enqueue_fetch (s : State) (a : Access) : (s.enqueue a).fetch = s.fetch := rfl
@[simp] theorem State.enqueue_hazards (s : State) (a : Access) : (s.enqueue a).hazards = s.hazards := rfl
@[simp] theorem State.enqueue_services (s : State) (a : Access) : (s.enqueue a).services = s.services := rfl
@[simp] theorem State.enqueue_segments (s : State) (a : Access) : (s.enqueue a).segments = s.segments := rfl
@[simp] theorem State.enqueue_zones (s : State) (a : Access) : (s.enqueue a).zones = s.zones := rfl
@[simp] theorem State.enqueue_cues (s : State) (a : Access) : (s.enqueue a).cues = s.cues := rfl
@[simp] theorem State.enqueue_slots (s : State) (a : Access) : (s.enqueue a).slots = s.slots := rfl
@[simp] theorem State.enqueue_allocs (s : State) (a : Access) : (s.enqueue a).allocs = s.allocs := rfl
@[simp] theorem State.enqueue_staleBursts (s : State) (a : Access) : (s.enqueue a).staleBursts = s.staleBursts := rfl
@[simp] theorem State.enqueue_handovers (s : State) (a : Access) : (s.enqueue a).handovers = s.handovers := rfl
@[simp] theorem State.enqueue_departures (s : State) (a : Access) : (s.enqueue a).departures = s.departures := rfl
@[simp] theorem State.enqueue_latch (s : State) (a : Access) : (s.enqueue a).latch = s.latch := rfl
@[simp] theorem State.enqueue_qualified (s : State) (a : Access) : (s.enqueue a).qualified = s.qualified := rfl
@[simp] theorem State.enqueue_qualTimer (s : State) (a : Access) : (s.enqueue a).qualTimer = s.qualTimer := rfl
@[simp] theorem State.enqueue_refusals (s : State) (a : Access) : (s.enqueue a).refusals = s.refusals := rfl
@[simp] theorem State.enqueue_barred (s : State) (a : Access) : (s.enqueue a).barred = s.barred := rfl
@[simp] theorem State.enqueue_protectedWrites (s : State) (a : Access) : (s.enqueue a).protectedWrites = s.protectedWrites := rfl
@[simp] theorem State.enqueue_request (s : State) (a : Access) : (s.enqueue a).request = s.request := rfl
@[simp] theorem State.enqueue_writeBackList (s : State) (a : Access) : (s.enqueue a).writeBackList = s.writeBackList := rfl
@[simp] theorem State.enqueue_writeBack (s : State) (a : Access) : (s.enqueue a).writeBack = s.writeBack := rfl
@[simp] theorem State.enqueue_ready (s : State) (a : Access) : (s.enqueue a).ready = s.ready := rfl
@[simp] theorem State.enqueue_writeOut (s : State) (a : Access) : (s.enqueue a).writeOut = s.writeOut := rfl
@[simp] theorem State.enqueue_accessFault (s : State) (a : Access) : (s.enqueue a).accessFault = s.accessFault := rfl
@[simp] theorem State.enqueue_memoryFault (s : State) (a : Access) : (s.enqueue a).memoryFault = s.memoryFault := rfl
@[simp] theorem State.enqueue_lostFaults (s : State) (a : Access) : (s.enqueue a).lostFaults = s.lostFaults := rfl
@[simp] theorem State.enqueue_producer (s : State) (a : Access) : (s.enqueue a).producer = s.producer := rfl
@[simp] theorem State.enqueue_consumer (s : State) (a : Access) : (s.enqueue a).consumer = s.consumer := rfl
@[simp] theorem State.enqueue_events (s : State) (a : Access) : (s.enqueue a).events = s.events := rfl
@[simp] theorem State.enqueue_eventInFlight (s : State) (a : Access) : (s.enqueue a).eventInFlight = s.eventInFlight := rfl
@[simp] theorem State.enqueue_lostEvents (s : State) (a : Access) : (s.enqueue a).lostEvents = s.lostEvents := rfl

/-! ## owe -/

@[simp] theorem State.owe_pending (s : State) (l : List Due) : (s.owe l).pending = s.pending := rfl
@[simp] theorem State.owe_resetLow (s : State) (l : List Due) : (s.owe l).resetLow = s.resetLow := rfl
@[simp] theorem State.owe_line (s : State) (l : List Due) : (s.owe l).line = s.line := rfl
@[simp] theorem State.owe_baseStraps (s : State) (l : List Due) : (s.owe l).baseStraps = s.baseStraps := rfl
@[simp] theorem State.owe_masterStraps (s : State) (l : List Due) : (s.owe l).masterStraps = s.masterStraps := rfl
@[simp] theorem State.owe_dividerStraps (s : State) (l : List Due) : (s.owe l).dividerStraps = s.dividerStraps := rfl
@[simp] theorem State.owe_timebase (s : State) (l : List Due) : (s.owe l).timebase = s.timebase := rfl
@[simp] theorem State.owe_portWaiting (s : State) (l : List Due) : (s.owe l).portWaiting = s.portWaiting := rfl
@[simp] theorem State.owe_due (s : State) (l : List Due) : (s.owe l).due = s.due ++ l := rfl
@[simp] theorem State.owe_responses (s : State) (l : List Due) : (s.owe l).responses = s.responses := rfl
@[simp] theorem State.owe_windows (s : State) (l : List Due) : (s.owe l).windows = s.windows := rfl
@[simp] theorem State.owe_cache (s : State) (l : List Due) : (s.owe l).cache = s.cache := rfl
@[simp] theorem State.owe_translations (s : State) (l : List Due) : (s.owe l).translations = s.translations := rfl
@[simp] theorem State.owe_translationWaits (s : State) (l : List Due) : (s.owe l).translationWaits = s.translationWaits := rfl
@[simp] theorem State.owe_fetch (s : State) (l : List Due) : (s.owe l).fetch = s.fetch := rfl
@[simp] theorem State.owe_hazards (s : State) (l : List Due) : (s.owe l).hazards = s.hazards := rfl
@[simp] theorem State.owe_services (s : State) (l : List Due) : (s.owe l).services = s.services := rfl
@[simp] theorem State.owe_segments (s : State) (l : List Due) : (s.owe l).segments = s.segments := rfl
@[simp] theorem State.owe_zones (s : State) (l : List Due) : (s.owe l).zones = s.zones := rfl
@[simp] theorem State.owe_cues (s : State) (l : List Due) : (s.owe l).cues = s.cues := rfl
@[simp] theorem State.owe_slots (s : State) (l : List Due) : (s.owe l).slots = s.slots := rfl
@[simp] theorem State.owe_allocs (s : State) (l : List Due) : (s.owe l).allocs = s.allocs := rfl
@[simp] theorem State.owe_staleBursts (s : State) (l : List Due) : (s.owe l).staleBursts = s.staleBursts := rfl
@[simp] theorem State.owe_handovers (s : State) (l : List Due) : (s.owe l).handovers = s.handovers := rfl
@[simp] theorem State.owe_departures (s : State) (l : List Due) : (s.owe l).departures = s.departures := rfl
@[simp] theorem State.owe_latch (s : State) (l : List Due) : (s.owe l).latch = s.latch := rfl
@[simp] theorem State.owe_qualified (s : State) (l : List Due) : (s.owe l).qualified = s.qualified := rfl
@[simp] theorem State.owe_qualTimer (s : State) (l : List Due) : (s.owe l).qualTimer = s.qualTimer := rfl
@[simp] theorem State.owe_refusals (s : State) (l : List Due) : (s.owe l).refusals = s.refusals := rfl
@[simp] theorem State.owe_barred (s : State) (l : List Due) : (s.owe l).barred = s.barred := rfl
@[simp] theorem State.owe_protectedWrites (s : State) (l : List Due) : (s.owe l).protectedWrites = s.protectedWrites := rfl
@[simp] theorem State.owe_request (s : State) (l : List Due) : (s.owe l).request = s.request := rfl
@[simp] theorem State.owe_writeBackList (s : State) (l : List Due) : (s.owe l).writeBackList = s.writeBackList := rfl
@[simp] theorem State.owe_writeBack (s : State) (l : List Due) : (s.owe l).writeBack = s.writeBack := rfl
@[simp] theorem State.owe_ready (s : State) (l : List Due) : (s.owe l).ready = s.ready := rfl
@[simp] theorem State.owe_writeOut (s : State) (l : List Due) : (s.owe l).writeOut = s.writeOut := rfl
@[simp] theorem State.owe_accessFault (s : State) (l : List Due) : (s.owe l).accessFault = s.accessFault := rfl
@[simp] theorem State.owe_memoryFault (s : State) (l : List Due) : (s.owe l).memoryFault = s.memoryFault := rfl
@[simp] theorem State.owe_lostFaults (s : State) (l : List Due) : (s.owe l).lostFaults = s.lostFaults := rfl
@[simp] theorem State.owe_producer (s : State) (l : List Due) : (s.owe l).producer = s.producer := rfl
@[simp] theorem State.owe_consumer (s : State) (l : List Due) : (s.owe l).consumer = s.consumer := rfl
@[simp] theorem State.owe_events (s : State) (l : List Due) : (s.owe l).events = s.events := rfl
@[simp] theorem State.owe_eventInFlight (s : State) (l : List Due) : (s.owe l).eventInFlight = s.eventInFlight := rfl
@[simp] theorem State.owe_lostEvents (s : State) (l : List Due) : (s.owe l).lostEvents = s.lostEvents := rfl
@[simp] theorem State.owe_ports (s : State) (l : List Due) : (s.owe l).ports = s.ports := rfl
@[simp] theorem State.owe_stage (s : State) (l : List Due) (m : Fin 16) : (s.owe l).stage m = s.stage m := rfl
@[simp] theorem State.owe_front (s : State) (l : List Due) (m : Fin 16) : (s.owe l).front m = s.front m := rfl

/-! ## popDue -/

@[simp] theorem State.popDue_pending (s : State) : s.popDue.pending = s.pending := rfl
@[simp] theorem State.popDue_resetLow (s : State) : s.popDue.resetLow = s.resetLow := rfl
@[simp] theorem State.popDue_line (s : State) : s.popDue.line = s.line := rfl
@[simp] theorem State.popDue_baseStraps (s : State) : s.popDue.baseStraps = s.baseStraps := rfl
@[simp] theorem State.popDue_masterStraps (s : State) : s.popDue.masterStraps = s.masterStraps := rfl
@[simp] theorem State.popDue_dividerStraps (s : State) : s.popDue.dividerStraps = s.dividerStraps := rfl
@[simp] theorem State.popDue_timebase (s : State) : s.popDue.timebase = s.timebase := rfl
@[simp] theorem State.popDue_portWaiting (s : State) : s.popDue.portWaiting = s.portWaiting := rfl
@[simp] theorem State.popDue_due (s : State) : s.popDue.due = s.due.tail := rfl
@[simp] theorem State.popDue_responses (s : State) : s.popDue.responses = s.responses := rfl
@[simp] theorem State.popDue_windows (s : State) : s.popDue.windows = s.windows := rfl
@[simp] theorem State.popDue_cache (s : State) : s.popDue.cache = s.cache := rfl
@[simp] theorem State.popDue_translations (s : State) : s.popDue.translations = s.translations := rfl
@[simp] theorem State.popDue_translationWaits (s : State) : s.popDue.translationWaits = s.translationWaits := rfl
@[simp] theorem State.popDue_fetch (s : State) : s.popDue.fetch = s.fetch := rfl
@[simp] theorem State.popDue_hazards (s : State) : s.popDue.hazards = s.hazards := rfl
@[simp] theorem State.popDue_services (s : State) : s.popDue.services = s.services := rfl
@[simp] theorem State.popDue_segments (s : State) : s.popDue.segments = s.segments := rfl
@[simp] theorem State.popDue_zones (s : State) : s.popDue.zones = s.zones := rfl
@[simp] theorem State.popDue_cues (s : State) : s.popDue.cues = s.cues := rfl
@[simp] theorem State.popDue_slots (s : State) : s.popDue.slots = s.slots := rfl
@[simp] theorem State.popDue_allocs (s : State) : s.popDue.allocs = s.allocs := rfl
@[simp] theorem State.popDue_staleBursts (s : State) : s.popDue.staleBursts = s.staleBursts := rfl
@[simp] theorem State.popDue_handovers (s : State) : s.popDue.handovers = s.handovers := rfl
@[simp] theorem State.popDue_departures (s : State) : s.popDue.departures = s.departures := rfl
@[simp] theorem State.popDue_latch (s : State) : s.popDue.latch = s.latch := rfl
@[simp] theorem State.popDue_qualified (s : State) : s.popDue.qualified = s.qualified := rfl
@[simp] theorem State.popDue_qualTimer (s : State) : s.popDue.qualTimer = s.qualTimer := rfl
@[simp] theorem State.popDue_refusals (s : State) : s.popDue.refusals = s.refusals := rfl
@[simp] theorem State.popDue_barred (s : State) : s.popDue.barred = s.barred := rfl
@[simp] theorem State.popDue_protectedWrites (s : State) : s.popDue.protectedWrites = s.protectedWrites := rfl
@[simp] theorem State.popDue_request (s : State) : s.popDue.request = s.request := rfl
@[simp] theorem State.popDue_writeBackList (s : State) : s.popDue.writeBackList = s.writeBackList := rfl
@[simp] theorem State.popDue_writeBack (s : State) : s.popDue.writeBack = s.writeBack := rfl
@[simp] theorem State.popDue_ready (s : State) : s.popDue.ready = s.ready := rfl
@[simp] theorem State.popDue_writeOut (s : State) : s.popDue.writeOut = s.writeOut := rfl
@[simp] theorem State.popDue_accessFault (s : State) : s.popDue.accessFault = s.accessFault := rfl
@[simp] theorem State.popDue_memoryFault (s : State) : s.popDue.memoryFault = s.memoryFault := rfl
@[simp] theorem State.popDue_lostFaults (s : State) : s.popDue.lostFaults = s.lostFaults := rfl
@[simp] theorem State.popDue_producer (s : State) : s.popDue.producer = s.producer := rfl
@[simp] theorem State.popDue_consumer (s : State) : s.popDue.consumer = s.consumer := rfl
@[simp] theorem State.popDue_events (s : State) : s.popDue.events = s.events := rfl
@[simp] theorem State.popDue_eventInFlight (s : State) : s.popDue.eventInFlight = s.eventInFlight := rfl
@[simp] theorem State.popDue_lostEvents (s : State) : s.popDue.lostEvents = s.lostEvents := rfl
@[simp] theorem State.popDue_ports (s : State) : s.popDue.ports = s.ports := rfl
@[simp] theorem State.popDue_stage (s : State) (m : Fin 16) : s.popDue.stage m = s.stage m := rfl
@[simp] theorem State.popDue_front (s : State) (m : Fin 16) : s.popDue.front m = s.front m := rfl

/-! ## issue -/

@[simp] theorem State.issue_pending (s : State) (m : Fin 16) (i : Issue) : (s.issue m i).pending = s.pending := rfl
@[simp] theorem State.issue_resetLow (s : State) (m : Fin 16) (i : Issue) : (s.issue m i).resetLow = s.resetLow := rfl
@[simp] theorem State.issue_line (s : State) (m : Fin 16) (i : Issue) : (s.issue m i).line = s.line := rfl
@[simp] theorem State.issue_baseStraps (s : State) (m : Fin 16) (i : Issue) : (s.issue m i).baseStraps = s.baseStraps := rfl
@[simp] theorem State.issue_masterStraps (s : State) (m : Fin 16) (i : Issue) : (s.issue m i).masterStraps = s.masterStraps := rfl
@[simp] theorem State.issue_dividerStraps (s : State) (m : Fin 16) (i : Issue) : (s.issue m i).dividerStraps = s.dividerStraps := rfl
@[simp] theorem State.issue_timebase (s : State) (m : Fin 16) (i : Issue) : (s.issue m i).timebase = s.timebase := rfl
@[simp] theorem State.issue_portWaiting (s : State) (m : Fin 16) (i : Issue) : (s.issue m i).portWaiting = s.portWaiting := rfl
@[simp] theorem State.issue_due (s : State) (m : Fin 16) (i : Issue) : (s.issue m i).due = s.due := rfl
@[simp] theorem State.issue_responses (s : State) (m : Fin 16) (i : Issue) : (s.issue m i).responses = s.responses := rfl
@[simp] theorem State.issue_windows (s : State) (m : Fin 16) (i : Issue) : (s.issue m i).windows = s.windows := rfl
@[simp] theorem State.issue_cache (s : State) (m : Fin 16) (i : Issue) : (s.issue m i).cache = s.cache := rfl
@[simp] theorem State.issue_translations (s : State) (m : Fin 16) (i : Issue) : (s.issue m i).translations = s.translations := rfl
@[simp] theorem State.issue_translationWaits (s : State) (m : Fin 16) (i : Issue) : (s.issue m i).translationWaits = s.translationWaits := rfl
@[simp] theorem State.issue_fetch (s : State) (m : Fin 16) (i : Issue) : (s.issue m i).fetch = s.fetch := rfl
@[simp] theorem State.issue_hazards (s : State) (m : Fin 16) (i : Issue) : (s.issue m i).hazards = s.hazards := rfl
@[simp] theorem State.issue_services (s : State) (m : Fin 16) (i : Issue) : (s.issue m i).services = s.services := rfl
@[simp] theorem State.issue_segments (s : State) (m : Fin 16) (i : Issue) : (s.issue m i).segments = s.segments := rfl
@[simp] theorem State.issue_zones (s : State) (m : Fin 16) (i : Issue) : (s.issue m i).zones = s.zones := rfl
@[simp] theorem State.issue_cues (s : State) (m : Fin 16) (i : Issue) : (s.issue m i).cues = s.cues := rfl
@[simp] theorem State.issue_slots (s : State) (m : Fin 16) (i : Issue) : (s.issue m i).slots = s.slots := rfl
@[simp] theorem State.issue_allocs (s : State) (m : Fin 16) (i : Issue) : (s.issue m i).allocs = s.allocs := rfl
@[simp] theorem State.issue_staleBursts (s : State) (m : Fin 16) (i : Issue) : (s.issue m i).staleBursts = s.staleBursts := rfl
@[simp] theorem State.issue_handovers (s : State) (m : Fin 16) (i : Issue) : (s.issue m i).handovers = s.handovers := rfl
@[simp] theorem State.issue_departures (s : State) (m : Fin 16) (i : Issue) : (s.issue m i).departures = s.departures := rfl
@[simp] theorem State.issue_latch (s : State) (m : Fin 16) (i : Issue) : (s.issue m i).latch = s.latch := rfl
@[simp] theorem State.issue_qualified (s : State) (m : Fin 16) (i : Issue) : (s.issue m i).qualified = s.qualified := rfl
@[simp] theorem State.issue_qualTimer (s : State) (m : Fin 16) (i : Issue) : (s.issue m i).qualTimer = s.qualTimer := rfl
@[simp] theorem State.issue_refusals (s : State) (m : Fin 16) (i : Issue) : (s.issue m i).refusals = s.refusals := rfl
@[simp] theorem State.issue_barred (s : State) (m : Fin 16) (i : Issue) : (s.issue m i).barred = s.barred := rfl
@[simp] theorem State.issue_protectedWrites (s : State) (m : Fin 16) (i : Issue) : (s.issue m i).protectedWrites = s.protectedWrites := rfl
@[simp] theorem State.issue_request (s : State) (m : Fin 16) (i : Issue) : (s.issue m i).request = s.request := rfl
@[simp] theorem State.issue_writeBackList (s : State) (m : Fin 16) (i : Issue) : (s.issue m i).writeBackList = s.writeBackList := rfl
@[simp] theorem State.issue_writeBack (s : State) (m : Fin 16) (i : Issue) : (s.issue m i).writeBack = s.writeBack := rfl
@[simp] theorem State.issue_ready (s : State) (m : Fin 16) (i : Issue) : (s.issue m i).ready = s.ready := rfl
@[simp] theorem State.issue_writeOut (s : State) (m : Fin 16) (i : Issue) : (s.issue m i).writeOut = s.writeOut := rfl
@[simp] theorem State.issue_accessFault (s : State) (m : Fin 16) (i : Issue) : (s.issue m i).accessFault = s.accessFault := rfl
@[simp] theorem State.issue_memoryFault (s : State) (m : Fin 16) (i : Issue) : (s.issue m i).memoryFault = s.memoryFault := rfl
@[simp] theorem State.issue_lostFaults (s : State) (m : Fin 16) (i : Issue) : (s.issue m i).lostFaults = s.lostFaults := rfl
@[simp] theorem State.issue_producer (s : State) (m : Fin 16) (i : Issue) : (s.issue m i).producer = s.producer := rfl
@[simp] theorem State.issue_consumer (s : State) (m : Fin 16) (i : Issue) : (s.issue m i).consumer = s.consumer := rfl
@[simp] theorem State.issue_events (s : State) (m : Fin 16) (i : Issue) : (s.issue m i).events = s.events := rfl
@[simp] theorem State.issue_eventInFlight (s : State) (m : Fin 16) (i : Issue) : (s.issue m i).eventInFlight = s.eventInFlight := rfl
@[simp] theorem State.issue_lostEvents (s : State) (m : Fin 16) (i : Issue) : (s.issue m i).lostEvents = s.lostEvents := rfl

/-! ## present -/

@[simp] theorem State.present_pending (s : State) (a : Access) : (s.present a).pending = s.pending := rfl
@[simp] theorem State.present_resetLow (s : State) (a : Access) : (s.present a).resetLow = s.resetLow := rfl
@[simp] theorem State.present_line (s : State) (a : Access) : (s.present a).line = s.line := rfl
@[simp] theorem State.present_baseStraps (s : State) (a : Access) : (s.present a).baseStraps = s.baseStraps := rfl
@[simp] theorem State.present_masterStraps (s : State) (a : Access) : (s.present a).masterStraps = s.masterStraps := rfl
@[simp] theorem State.present_dividerStraps (s : State) (a : Access) : (s.present a).dividerStraps = s.dividerStraps := rfl
@[simp] theorem State.present_timebase (s : State) (a : Access) : (s.present a).timebase = s.timebase := rfl
@[simp] theorem State.present_ports (s : State) (a : Access) : (s.present a).ports = s.ports := rfl
@[simp] theorem State.present_due (s : State) (a : Access) : (s.present a).due = s.due := rfl
@[simp] theorem State.present_responses (s : State) (a : Access) : (s.present a).responses = s.responses := rfl
@[simp] theorem State.present_windows (s : State) (a : Access) : (s.present a).windows = s.windows := rfl
@[simp] theorem State.present_cache (s : State) (a : Access) : (s.present a).cache = s.cache := rfl
@[simp] theorem State.present_translations (s : State) (a : Access) : (s.present a).translations = s.translations := rfl
@[simp] theorem State.present_translationWaits (s : State) (a : Access) : (s.present a).translationWaits = s.translationWaits := rfl
@[simp] theorem State.present_fetch (s : State) (a : Access) : (s.present a).fetch = s.fetch := rfl
@[simp] theorem State.present_hazards (s : State) (a : Access) : (s.present a).hazards = s.hazards := rfl
@[simp] theorem State.present_services (s : State) (a : Access) : (s.present a).services = s.services := rfl
@[simp] theorem State.present_segments (s : State) (a : Access) : (s.present a).segments = s.segments := rfl
@[simp] theorem State.present_zones (s : State) (a : Access) : (s.present a).zones = s.zones := rfl
@[simp] theorem State.present_cues (s : State) (a : Access) : (s.present a).cues = s.cues := rfl
@[simp] theorem State.present_slots (s : State) (a : Access) : (s.present a).slots = s.slots := rfl
@[simp] theorem State.present_allocs (s : State) (a : Access) : (s.present a).allocs = s.allocs := rfl
@[simp] theorem State.present_staleBursts (s : State) (a : Access) : (s.present a).staleBursts = s.staleBursts := rfl
@[simp] theorem State.present_handovers (s : State) (a : Access) : (s.present a).handovers = s.handovers := rfl
@[simp] theorem State.present_departures (s : State) (a : Access) : (s.present a).departures = s.departures := rfl
@[simp] theorem State.present_latch (s : State) (a : Access) : (s.present a).latch = s.latch := rfl
@[simp] theorem State.present_qualified (s : State) (a : Access) : (s.present a).qualified = s.qualified := rfl
@[simp] theorem State.present_qualTimer (s : State) (a : Access) : (s.present a).qualTimer = s.qualTimer := rfl
@[simp] theorem State.present_refusals (s : State) (a : Access) : (s.present a).refusals = s.refusals := rfl
@[simp] theorem State.present_barred (s : State) (a : Access) : (s.present a).barred = s.barred := rfl
@[simp] theorem State.present_protectedWrites (s : State) (a : Access) : (s.present a).protectedWrites = s.protectedWrites := rfl
@[simp] theorem State.present_request (s : State) (a : Access) : (s.present a).request = s.request := rfl
@[simp] theorem State.present_writeBackList (s : State) (a : Access) : (s.present a).writeBackList = s.writeBackList := rfl
@[simp] theorem State.present_writeBack (s : State) (a : Access) : (s.present a).writeBack = s.writeBack := rfl
@[simp] theorem State.present_ready (s : State) (a : Access) : (s.present a).ready = s.ready := rfl
@[simp] theorem State.present_writeOut (s : State) (a : Access) : (s.present a).writeOut = s.writeOut := rfl
@[simp] theorem State.present_accessFault (s : State) (a : Access) : (s.present a).accessFault = s.accessFault := rfl
@[simp] theorem State.present_memoryFault (s : State) (a : Access) : (s.present a).memoryFault = s.memoryFault := rfl
@[simp] theorem State.present_lostFaults (s : State) (a : Access) : (s.present a).lostFaults = s.lostFaults := rfl
@[simp] theorem State.present_producer (s : State) (a : Access) : (s.present a).producer = s.producer := rfl
@[simp] theorem State.present_consumer (s : State) (a : Access) : (s.present a).consumer = s.consumer := rfl
@[simp] theorem State.present_events (s : State) (a : Access) : (s.present a).events = s.events := rfl
@[simp] theorem State.present_eventInFlight (s : State) (a : Access) : (s.present a).eventInFlight = s.eventInFlight := rfl
@[simp] theorem State.present_lostEvents (s : State) (a : Access) : (s.present a).lostEvents = s.lostEvents := rfl

/-! ## Tables -/

/-- Reading a table after a write to one place. -/
@[simp] theorem setAt_get {α : Type} {n : Nat} (v : Vector α n) (i j : Fin n) (x : α) :
    (setAt v i x).get j = if i = j then x else v.get j := by
  simp only [setAt, Vector.get, Vector.set, Array.getElem_set, Fin.ext_iff]
  rfl

@[simp] theorem State.setPort_ports (s : State) (m : Fin 16) (p : MasterPort) : (s.setPort m p).ports = setAt s.ports m p :=
  rfl

@[simp] theorem State.setWindow_windows (s : State) (w : Fin 16) (e : WindowEntry) :
    (s.setWindow w e).windows = setAt s.windows w e := rfl

@[simp] theorem State.setService_services (s : State) (v : Fin 8) (e : ServiceEntry) :
    (s.setService v e).services = setAt s.services v e := rfl

@[simp] theorem State.setSegment_segments (s : State) (g : Fin 12) (e : SegmentEntry) :
    (s.setSegment g e).segments = setAt s.segments g e := rfl

@[simp] theorem State.setZone_zones (s : State) (z : Fin 8) (r : ZoneRecord) : (s.setZone z r).zones = setAt s.zones z r :=
  rfl

@[simp] theorem State.setCue_cues (s : State) (c : Fin 32) (e : CueEntry) : (s.setCue c e).cues = setAt s.cues c e := rfl

@[simp] theorem State.setSlot_slots (s : State) (n : Fin 16) (t : Slot) : (s.setSlot n t).slots = setAt s.slots n t := rfl

@[simp] theorem State.listBytes_writeBackList (s : State) (id : RecordId) (l : List Nat) :
    (s.listBytes id l).writeBackList = addListed id l s.writeBackList := rfl

@[simp] theorem State.list_writeBackList (s : State) (id : RecordId) :
    (s.list id).writeBackList = addListed id [] s.writeBackList := rfl

/-! ## Stages and queues -/

@[simp] theorem State.setStage_stage (s : State) (m k : Fin 16) (st : Stage) :
    (s.setStage m st).stage k = if m = k then st else s.stage k := by
  unfold State.stage State.setStage
  rw [State.setPort_ports, setAt_get]
  split <;> rfl

@[simp] theorem State.setStage_front (s : State) (m k : Fin 16) (st : Stage) : (s.setStage m st).front k = s.front k := by
  unfold State.front State.setStage
  rw [State.setPort_ports, setAt_get]
  split
  · next h => rw [h]
  · rfl

@[simp] theorem State.issue_stage (s : State) (m k : Fin 16) (i : Issue) :
    (s.issue m i).stage k = if m = k then .issued i else s.stage k := State.setStage_stage s m k _

@[simp] theorem State.list_stage (s : State) (id : RecordId) (m : Fin 16) : (s.list id).stage m = s.stage m := rfl

/-! ## What is left to do -/

/-- The accesses that stand in the queues. -/
def State.queued (s : State) : Nat := ((List.finRange 16).map fun m => (s.ports.get m).queue.length).sum

theorem State.load_eq (s : State) :
    s.load = (s.due.map Due.weight).sum + 2 * s.queued + 4 * s.portWaiting.length := rfl

theorem sum_update {α : Type} [DecidableEq α] (f : α → Nat) (a : α) (x : Nat) (l : List α) (h : l.Nodup) (k : a ∈ l) :
    (l.map fun b => if a = b then x else f b).sum + f a = (l.map f).sum + x := by
  induction l with
  | nil => cases k
  | cons b bs ih =>
    simp only [List.map_cons, List.sum_cons]
    by_cases e : a = b
    · subst e
      have m : (bs.map fun b => if a = b then x else f b) = bs.map f :=
        List.map_congr_left fun b hb => if_neg fun e => (List.nodup_cons.mp h).1 (by rw [e]; exact hb)
      rw [if_pos rfl, m]
      omega
    · have i := ih (List.nodup_cons.mp h).2 ((List.mem_cons.mp k).resolve_left e)
      rw [if_neg e]
      omega

/-- One master's queue replaced changes the number of queued accesses by as much as that queue. -/
theorem State.setPort_queued (s : State) (m : Fin 16) (p : MasterPort) :
    (s.setPort m p).queued + (s.ports.get m).queue.length = s.queued + p.queue.length := by
  unfold State.queued
  have e : (fun k => ((s.setPort m p).ports.get k).queue.length) =
      fun k => if m = k then p.queue.length else (s.ports.get k).queue.length := by
    funext k
    rw [State.setPort_ports, setAt_get]
    split <;> rfl
  rw [e]
  exact sum_update _ _ _ _ (List.nodup_finRange 16) (List.mem_finRange m)

/-- A change of how far an access has gone leaves as much to do. -/
@[simp] theorem State.setStage_load (s : State) (m : Fin 16) (st : Stage) : (s.setStage m st).load = s.load := by
  have q := s.setPort_queued m { s.ports.get m with stage := st }
  rw [State.load_eq, State.load_eq]
  show _ + 2 * (s.setPort m _).queued + _ = _
  simp only [State.setStage, State.setPort_due, State.setPort_portWaiting]
  simp only at q
  omega

@[simp] theorem State.list_front (s : State) (id : RecordId) (m : Fin 16) : (s.list id).front m = s.front m := rfl

end Sys2Proof.Machine
end

