-- ==== Sys2Proof/Laws/Quiet.lean ====
section
/-! SUPPORT. What the operations of the data paths, of the Supervisor and of the Break-In Controller can do to the rest of
the part: one lemma per shared operation, all about the one relation `Quiet`. -/

namespace Sys2Proof.Machine

/-- The identifiers on the write-back list, oldest first. -/
def State.listedIds (s : State) : List RecordId := s.writeBackList.map (·.id)

/-- What an operation of the data paths leaves alone, and the bounds that it keeps: the pins and straps, the timebase,
Incident Control, the request block, the write-back in flight, the write-out, the departure notices and both event indices
stand as they did;
no identifier comes to stand twice on the write-back list; the pending events only grow, within the ring's room; no queue
grows, nor what is left to do; the translation queue and the map cache keep within their places; sound windows, segments and gains stay
sound. -/
structure Quiet (s t : State) : Prop where
  pending : t.pending = s.pending
  resetLow : t.resetLow = s.resetLow
  line : t.line = s.line
  baseStraps : t.baseStraps = s.baseStraps
  masterStraps : t.masterStraps = s.masterStraps
  dividerStraps : t.dividerStraps = s.dividerStraps
  timebase : t.timebase = s.timebase
  portWaiting : t.portWaiting = s.portWaiting
  load : t.load ≤ s.load
  latch : t.latch = s.latch
  qualified : t.qualified = s.qualified
  qualTimer : t.qualTimer = s.qualTimer
  refusals : t.refusals = s.refusals
  barred : t.barred = s.barred
  protectedWrites : t.protectedWrites = s.protectedWrites
  request : t.request = s.request
  writeBack : t.writeBack = s.writeBack
  ready : t.ready = s.ready
  writeOut : t.writeOut = s.writeOut
  producer : t.producer = s.producer
  consumer : t.consumer = s.consumer
  eventInFlight : t.eventInFlight = s.eventInFlight
  staleBursts : t.staleBursts = s.staleBursts
  departures : t.departures = s.departures
  listed : s.listedIds.Nodup → t.listedIds.Nodup
  events : s.events <+: t.events
  room : s.ringCount + s.events.length ≤ 64 → t.ringCount + t.events.length ≤ 64
  queues : ∀ m, (t.ports.get m).queue.length ≤ (s.ports.get m).queue.length
  translations : s.translations.length ≤ 8 → t.translations.length ≤ 8
  cache : s.cache.length ≤ 8 → t.cache.length ≤ 8
  windows : s.WindowSound → t.WindowSound
  segments : s.SegmentSound → t.SegmentSound
  gains : s.GainSound → t.GainSound

theorem Quiet.refl (s : State) : Quiet s s := by
  constructor <;> first | rfl | exact fun h => h | exact fun _ => Nat.le_refl _

theorem Quiet.trans {s t u : State} (h : Quiet s t) (k : Quiet t u) : Quiet s u := by
  constructor
  case listed => exact fun x => k.listed (h.listed x)
  case events => exact h.events.trans k.events
  case room => exact fun x => k.room (h.room x)
  case queues => exact fun m => (k.queues m).trans (h.queues m)
  case translations => exact fun x => k.translations (h.translations x)
  case cache => exact fun x => k.cache (h.cache x)
  case windows => exact fun x => k.windows (h.windows x)
  case segments => exact fun x => k.segments (h.segments x)
  case gains => exact fun x => k.gains (h.gains x)
  case pending => exact k.pending.trans h.pending
  case resetLow => exact k.resetLow.trans h.resetLow
  case line => exact k.line.trans h.line
  case baseStraps => exact k.baseStraps.trans h.baseStraps
  case masterStraps => exact k.masterStraps.trans h.masterStraps
  case dividerStraps => exact k.dividerStraps.trans h.dividerStraps
  case timebase => exact k.timebase.trans h.timebase
  case portWaiting => exact k.portWaiting.trans h.portWaiting
  case load => exact k.load.trans h.load
  case latch => exact k.latch.trans h.latch
  case qualified => exact k.qualified.trans h.qualified
  case qualTimer => exact k.qualTimer.trans h.qualTimer
  case refusals => exact k.refusals.trans h.refusals
  case barred => exact k.barred.trans h.barred
  case protectedWrites => exact k.protectedWrites.trans h.protectedWrites
  case request => exact k.request.trans h.request
  case writeBack => exact k.writeBack.trans h.writeBack
  case ready => exact k.ready.trans h.ready
  case writeOut => exact k.writeOut.trans h.writeOut
  case producer => exact k.producer.trans h.producer
  case consumer => exact k.consumer.trans h.consumer
  case eventInFlight => exact k.eventInFlight.trans h.eventInFlight
  case staleBursts => exact k.staleBursts.trans h.staleBursts
  case departures => exact k.departures.trans h.departures

theorem Quiet.ite {s t u : State} {p : Prop} [Decidable p] (h : Quiet s t) (k : Quiet s u) :
    Quiet s (if p then t else u) := by
  split
  · exact h
  · exact k

theorem Quiet.foldl {α : Type} {f : State → α → State} (h : ∀ s x, Quiet s (f s x)) (l : List α) :
    ∀ s, Quiet s (l.foldl f s) := by
  induction l with
  | nil => exact Quiet.refl
  | cons x xs ih => exact fun s => (h s x).trans (ih (f s x))

/-! ## Updates of single places -/

theorem setStage_quiet (s : State) (m : Fin 16) (st : Stage) : Quiet s (s.setStage m st) := by
  constructor
  case load => exact (s.setStage_load m st).le
  case queues =>
    intro k
    unfold State.setStage
    rw [State.setPort_ports, setAt_get]
    split
    · next h => rw [h]
    · exact Nat.le_refl _
  all_goals first | rfl | exact fun h => h

theorem setWindow_quiet (s : State) (w : Fin 16) (e : WindowEntry) (h : (s.windows.get w).Sound → e.Sound) :
    Quiet s (s.setWindow w e) := by
  constructor <;> first | rfl | exact fun h => h | exact fun _ => Nat.le_refl _ | skip
  intro q k
  rw [State.setWindow_windows, setAt_get]
  split
  · exact h (q w)
  · exact q k

theorem setService_quiet (s : State) (v : Fin 8) (e : ServiceEntry) : Quiet s (s.setService v e) := by
  constructor <;> first | rfl | exact fun h => h | exact fun _ => Nat.le_refl _

theorem setSegment_quiet (s : State) (g : Fin 12) (e : SegmentEntry) (h : (s.segments.get g).Sound → e.Sound) :
    Quiet s (s.setSegment g e) := by
  constructor <;> first | rfl | exact fun h => h | exact fun _ => Nat.le_refl _ | skip
  intro q k
  rw [State.setSegment_segments, setAt_get]
  split
  · exact h (q g)
  · exact q k

theorem setZone_quiet (s : State) (z : Fin 8) (r : ZoneRecord)
    (h : (∀ c, (s.cues.get c).duck ≤ 16384) → (s.zones.get z).Sound → r.Sound) : Quiet s (s.setZone z r) := by
  constructor <;> first | rfl | exact fun h => h | exact fun _ => Nat.le_refl _ | skip
  intro q
  refine ⟨q.1, fun k => ?_⟩
  rw [State.setZone_zones, setAt_get]
  split
  · exact h q.1 (q.2 z)
  · exact q.2 k

theorem setCue_quiet (s : State) (c : Fin 32) (e : CueEntry) (h : (s.cues.get c).duck ≤ 16384 → e.duck ≤ 16384) :
    Quiet s (s.setCue c e) := by
  constructor <;> first | rfl | exact fun h => h | exact fun _ => Nat.le_refl _ | skip
  intro q
  refine ⟨fun k => ?_, q.2⟩
  rw [State.setCue_cues, setAt_get]
  split
  · exact h (q.1 c)
  · exact q.1 k

theorem setSlot_quiet (s : State) (n : Fin 16) (t : Slot) : Quiet s (s.setSlot n t) := by
  constructor <;> first | rfl | exact fun h => h | exact fun _ => Nat.le_refl _

theorem handovers_quiet (s : State) (l : List (Fin 12)) : Quiet s { s with handovers := l } := by
  constructor <;> first | rfl | exact fun h => h | exact fun _ => Nat.le_refl _

theorem allocs_quiet (s : State) (l : List PendingAlloc) : Quiet s { s with allocs := l } := by
  constructor <;> first | rfl | exact fun h => h | exact fun _ => Nat.le_refl _

theorem fetch_quiet (s : State) (f : Option MapFetch) : Quiet s { s with fetch := f } := by
  constructor <;> first | rfl | exact fun h => h | exact fun _ => Nat.le_refl _

theorem waits_quiet (s : State) (l : List TransReq) : Quiet s { s with translationWaits := l } := by
  constructor <;> first | rfl | exact fun h => h | exact fun _ => Nat.le_refl _

theorem endHazards_quiet (s : State) (src : HazardSource) : Quiet s (s.endHazards src) := by
  constructor <;> first | rfl | exact fun h => h | exact fun _ => Nat.le_refl _

theorem cacheFilter_quiet (s : State) (p : CacheEntry → Bool) : Quiet s { s with cache := s.cache.filter p } := by
  constructor <;> first | rfl | exact fun h => h | exact fun _ => Nat.le_refl _ |
    exact fun h => (List.length_filter_le _ _).trans h

theorem faultRecord_quiet (s : State) (r q : FaultRecord) : Quiet s { s with accessFault := r, memoryFault := q } := by
  constructor <;> first | rfl | exact fun h => h | exact fun _ => Nat.le_refl _

theorem lostFaults_quiet (s : State) (n : Nat) : Quiet s { s with lostFaults := n } := by
  constructor <;> first | rfl | exact fun h => h | exact fun _ => Nat.le_refl _

theorem lostEvents_quiet (s : State) (n : Nat) : Quiet s { s with lostEvents := n } := by
  constructor <;> first | rfl | exact fun h => h | exact fun _ => Nat.le_refl _

/-! ## The write-back list (R159) -/

/-- Listing a record keeps the list in order, appends the record if it did not stand there, and changes nothing else of the
identifiers. -/
theorem addListed_ids (id : RecordId) (host : List Nat) (l : List ListedRecord) :
    (addListed id host l).map (·.id) = if id ∈ l.map (·.id) then l.map (·.id) else l.map (·.id) ++ [id] := by
  induction l with
  | nil => rfl
  | cons r rs ih =>
    unfold addListed
    by_cases h : r.id = id
    · simp [h]
    · have h' : ¬ id = r.id := fun e => h e.symm
      simp only [h, ↓reduceIte, List.map_cons, ih, List.mem_cons, h', false_or]
      split <;> rfl

theorem addListed_nodup (id : RecordId) (host : List Nat) (l : List ListedRecord) (h : (l.map (·.id)).Nodup) :
    ((addListed id host l).map (·.id)).Nodup := by
  rw [addListed_ids]
  split
  · exact h
  · next k => exact List.nodup_append.2 ⟨h, List.nodup_singleton _, fun x hx y hy e => k (by simp_all)⟩

theorem listBytes_quiet (s : State) (id : RecordId) (l : List Nat) : Quiet s (s.listBytes id l) := by
  constructor <;> first | rfl | exact fun h => h | exact fun _ => Nat.le_refl _ |
    exact addListed_nodup _ _ _

theorem list_quiet (s : State) (id : RecordId) : Quiet s (s.list id) := listBytes_quiet s id []

theorem listIf_quiet (s : State) (b : Bool) (id : RecordId) : Quiet s (s.listIf b id) :=
  Quiet.ite (list_quiet s id) (Quiet.refl s)

end Sys2Proof.Machine
end

