-- ==== Sys2Proof/Laws/QuietPath.lean ====
section
/-! SUPPORT. What the Fault and Event Unit, the system port, the Frame Translator and the memory path leave alone: one
lemma per shared operation (see `Quiet`). -/

namespace Sys2Proof.Machine

/-! ## Faults and events -/

theorem loseEvent_quiet (s : State) : Quiet s s.loseEvent :=
  (lostEvents_quiet s _).trans (listIf_quiet _ _ _)

theorem raiseEvent_quiet (s : State) (k : EventKind) (o : Nat) (tag : Byte) (r : Nat) : Quiet s (s.raiseEvent k o tag r) := by
  unfold State.raiseEvent
  split
  · split
    · next h =>
      constructor <;> first | rfl | exact fun h => h | exact fun _ => Nat.le_refl _ | skip
      · exact List.prefix_append _ _
      · intro _
        simp only [List.length_append, List.length_singleton, State.ringCount] at h ⊢
        simp only [Config.ringPlaces] at h
        omega
    · exact loseEvent_quiet s
  · exact Quiet.refl s

theorem setFaultRecord_quiet (s : State) (c : Bool) (r : FaultRecord) : Quiet s (s.setFaultRecord c r) := by
  unfold State.setFaultRecord
  split
  · exact (faultRecord_quiet s s.accessFault r).trans (listIf_quiet _ _ _)
  · exact (faultRecord_quiet s r s.memoryFault).trans (listIf_quiet _ _ _)

theorem countLostFault_quiet (s : State) (b : Bool) : Quiet s (s.countLostFault b) := by
  unfold State.countLostFault
  exact Quiet.ite ((lostFaults_quiet s _).trans (listIf_quiet _ _ _)) (Quiet.refl s)

theorem raiseFault_quiet (s : State) (k : FaultKind) (n : Nat) (a : Addr) (w : Option (Fin 16)) :
    Quiet s (s.raiseFault k n a w) :=
  ((setFaultRecord_quiet s _ _).trans (countLostFault_quiet _ _)).trans (raiseEvent_quiet _ _ _ _ _)

theorem clearFault_quiet (s : State) (c : Bool) : Quiet s (s.clearFault c) :=
  Quiet.ite (setFaultRecord_quiet s _ _) (Quiet.refl s)

/-! ## The port -/

theorem snoop_quiet (s : State) (src : HazardSource) (a : Addr) (n : Nat) : Quiet s (s.snoop src a n) := by
  constructor <;> first | rfl | exact fun h => h | exact fun _ => Nat.le_refl _ | skip
  intro h
  show (s.snoopedCache a n).length ≤ 8
  unfold State.snoopedCache
  split
  · exact h
  · exact (List.length_filter_le _ _).trans h

/-- An access that is answered leaves its queue, and at most the taking of the next comes due for it. -/
theorem respond_load (s : State) (m : Fin 16) (ok : Bool) (d : List Word) : (s.respond m ok d).load ≤ s.load := by
  have q := s.setPort_queued m { queue := (s.ports.get m).queue.tail, stage := .waiting }
  have n : ((nextTaking m (s.ports.get m).queue).map Due.weight).sum + 2 * (s.ports.get m).queue.tail.length ≤
      2 * (s.ports.get m).queue.length := by
    unfold nextTaking
    cases h : (s.ports.get m).queue with
    | nil => simp
    | cons a as => cases as <;> (simp [Due.weight]; try omega)
  rw [State.load_eq, State.load_eq]
  show ((s.due ++ nextTaking m (s.ports.get m).queue).map Due.weight).sum + 2 * (s.setPort m _).queued + _ ≤ _
  rw [List.map_append, List.sum_append]
  have e : (s.respond m ok d).portWaiting = s.portWaiting := rfl
  rw [e]
  simp only at q
  omega

theorem respond_quiet (s : State) (m : Fin 16) (ok : Bool) (d : List Word) : Quiet s (s.respond m ok d) := by
  constructor
  case load => exact respond_load s m ok d
  all_goals first | rfl | exact fun h => h | skip
  intro k
  show ((setAt s.ports m _).get k).queue.length ≤ _
  rw [setAt_get]
  split
  · next h => subst h; exact (List.length_tail (l := (s.ports.get m).queue)) ▸ Nat.sub_le _ _
  · exact Nat.le_refl _

theorem respondDropped_quiet (s : State) (m : Fin 16) (a : Access) : Quiet s (s.respondDropped m a) := respond_quiet _ _ _ _

theorem endRetirement_quiet (s : State) (w : Fin 16) : Quiet s (s.endRetirement w) := by
  unfold State.endRetirement
  exact Quiet.ite (((cacheFilter_quiet s _).trans (setWindow_quiet _ _ _ (by exact fun h => ⟨fun k => Bool.noConfusion k.2, h.2⟩))).trans (list_quiet _ _)) (Quiet.refl s)

theorem endRetirements_quiet (s : State) : Quiet s s.endRetirements := Quiet.foldl endRetirement_quiet _ s

/-! ## Translations -/

theorem touchCache_quiet (s : State) (c : CacheEntry) (h : c ∈ s.cache) : Quiet s (s.touchCache c) := by
  constructor <;> first | rfl | exact fun h => h | exact fun _ => Nat.le_refl _ | skip
  intro k
  have : (s.cache.filter (fun x => x != c)).length < s.cache.length := by
    refine List.length_filter_lt_length_iff_exists.2 ⟨c, h, by simp⟩
  show (s.cache.filter _).length + 1 ≤ 8
  omega

theorem joinQueue_quiet (s : State) (r : TransReq) : Quiet s (s.joinQueue r) := by
  unfold State.joinQueue
  split
  · next h =>
    constructor <;> first | rfl | exact fun h => h | exact fun _ => Nat.le_refl _ | skip
    intro _
    have h2 := of_decide_eq_true (Bool.and_eq_true_iff.1 h).2
    simpa [Config.translationPlaces] using h2
  · exact waits_quiet s _

theorem translate_quiet (s : State) (o : Owner) (w : Fin 16) (f : Nat) (d : Option Addr) (own : Bool) :
    Quiet s (s.translate o w f d own).2 := by
  unfold State.translate
  dsimp only
  split
  · split
    · exact raiseFault_quiet _ _ _ _ _
    · split
      · next h => exact touchCache_quiet s _ (List.mem_of_find?_eq_some h)
      · exact joinQueue_quiet _ _
  · split
    · exact raiseFault_quiet _ _ _ _ _
    · exact Quiet.refl s

theorem createCacheEntry_quiet (s : State) (r : TransReq) (a : Addr) : Quiet s (s.createCacheEntry r a) := by
  constructor <;> first | rfl | exact fun h => h | exact fun _ => Nat.le_refl _ | skip
  intro _
  show (List.take 8 _).length ≤ 8
  simp

theorem endFetch_quiet (s : State) (r : TransReq) : Quiet s (s.endFetch r) := by
  constructor <;> first | rfl | exact fun h => h | exact fun _ => Nat.le_refl _ |
    exact fun h => (List.length_filter_le _ _).trans h

theorem issueFetch_quiet (s : State) : Quiet s s.issueFetch := by
  unfold State.issueFetch
  split
  · exact Quiet.refl s
  · split
    · exact fetch_quiet s _
    · exact Quiet.refl s

theorem joinFromWait_quiet (s : State) : Quiet s s.joinFromWait := by
  unfold State.joinFromWait
  split
  · exact Quiet.refl s
  · split
    · next h =>
      constructor <;> first | rfl | exact fun h => h | exact fun _ => Nat.le_refl _ | skip
      intro _
      simp only [Config.translationPlaces] at h
      simpa using h
    · exact Quiet.refl s

/-! ## The way to memory and back -/

theorem issue_quiet (s : State) (m : Fin 16) (i : Issue) : Quiet s (s.issue m i) := setStage_quiet _ _ _

theorem passUnchanged_quiet (s : State) (m : Fin 16) (a : Access) : Quiet s (s.passUnchanged m a) := issue_quiet _ _ _

theorem underrun_quiet (s : State) (m : Fin 16) (a : Access) (d : Fin 8) : Quiet s (s.underrun m a d) :=
  ((setService_quiet s _ _).trans (listIf_quiet _ _ _)).trans (respond_quiet _ _ _ _)

theorem issueClip_quiet (s : State) (h : WinHit) (n : Nat) (v : MixValues) : Quiet s (s.issueClip h n v).2 := by
  unfold State.issueClip
  split
  · exact Quiet.refl s
  · dsimp only
    split
    · exact raiseFault_quiet _ _ _ _ _
    · exact Quiet.refl s

theorem deliver_quiet (s : State) (m : Fin 16) (a : Access) (h : WinHit) (t : Treatment) (own : Bool) (p : Addr) :
    Quiet s (s.deliver m a h t own p) := by
  unfold State.deliver
  dsimp only
  split
  · refine Quiet.trans ?_ (issue_quiet _ _ _)
    split
    · exact snoop_quiet _ _ _ _
    · exact Quiet.refl s
  · exact issue_quiet _ _ _
  · split
    · exact underrun_quiet _ _ _ _
    · exact issue_quiet _ _ _
  · exact (issueClip_quiet _ _ _ _).trans (issue_quiet _ _ _)

theorem sendThrough_quiet (s : State) (m : Fin 16) (a : Access) (h : WinHit) (t : Treatment) (own : Bool) :
    Quiet s (s.sendThrough m a h t own) := by
  have q := translate_quiet s (.master m) (t.target h).1 (t.target h).2 (some a.addr) t.ownRequest
  unfold State.sendThrough
  dsimp only
  split
  · exact q.trans (deliver_quiet _ _ _ _ _ _ _)
  · exact q.trans (respondDropped_quiet _ _ _)
  · exact q.trans (setStage_quiet _ _ _)

theorem giveMaster_quiet (s : State) (m : Fin 16) (p : Addr) : Quiet s (s.giveMaster m p) := by
  unfold State.giveMaster
  split
  · exact deliver_quiet _ _ _ _ _ _ _
  · exact Quiet.refl s

theorem refuseMaster_quiet (s : State) (m : Fin 16) : Quiet s (s.refuseMaster m) := by
  unfold State.refuseMaster
  split
  · exact respondDropped_quiet _ _ _
  · exact Quiet.refl s

theorem finishMix_quiet (s : State) (m : Fin 16) (a : Access) (v : MixValues) (r : Answer) (c : List Word) :
    Quiet s (s.finishMix m a v r c) := Quiet.ite (respond_quiet _ _ _ _) (respond_quiet _ _ _ _)

theorem memoryError_quiet (s : State) (m : Fin 16) (a : Access) (w : Option (Fin 16)) : Quiet s (s.memoryError m a w) :=
  raiseFault_quiet _ _ _ _ _

theorem answerAccess_quiet (s : State) (m : Fin 16) (a : Access) (i : Issue) (r : Answer) :
    Quiet s (s.answerAccess m a i r) := by
  have q : Quiet s (if r.ok then s else s.memoryError m a i.window) := Quiet.ite (Quiet.refl s) (memoryError_quiet _ _ _ _)
  unfold State.answerAccess
  dsimp only
  split
  · exact q.trans (respond_quiet _ _ _ _)
  · split
    · exact respond_quiet _ _ _ _
    · exact (memoryError_quiet _ _ _ _).trans (respond_quiet _ _ _ _)
  · exact Quiet.refl s
  · split
    · exact Quiet.refl s
    · split
      · exact q.trans (issue_quiet _ _ _)
      · exact q.trans (finishMix_quiet _ _ _ _ _ _)
      · exact q.trans (finishMix_quiet _ _ _ _ _ _)

theorem answerClip_quiet (s : State) (m : Fin 16) (a : Access) (i : Issue) (r : Answer) : Quiet s (s.answerClip m a i r) := by
  unfold State.answerClip
  split
  · next port _ _ =>
    have q : Quiet s (if r.ok then s else s.raiseFault .clipError Config.ownNumber port.addr i.window) :=
      Quiet.ite (Quiet.refl s) (raiseFault_quiet _ _ _ _ _)
    dsimp only
    split
    · exact q.trans (issue_quiet _ _ _)
    · exact q.trans (finishMix_quiet _ _ _ _ _ _)
  · exact Quiet.refl s

theorem answerSource_quiet (s : State) (m : Fin 16) (a : Access) (i : Issue) (r : Answer) :
    Quiet s (s.answerSource m a i r) := by
  unfold State.answerSource
  split
  · exact Quiet.ite (respond_quiet _ _ _ _) ((raiseFault_quiet _ _ _ _ _).trans (respond_quiet _ _ _ _))
  · exact Quiet.refl s

theorem withIssued_quiet (s : State) (m : Fin 16) (r : Answer) (f : Access → Issue → State)
    (h : ∀ a i, Quiet s (f a i)) : Quiet s (s.withIssued m r f) := by
  unfold State.withIssued
  split
  · exact Quiet.ite (h _ _) (Quiet.refl s)
  · exact Quiet.refl s

end Sys2Proof.Machine
end

