-- ==== Sys2Proof/Laws/QuietBlocks.lean ====
section
/-! SUPPORT. What the Uplink Combiner, the Downlink Equalizer, the Break-In Controller and the Segment Supervisor leave
alone: one lemma per shared operation (see `Quiet`). -/

namespace Sys2Proof.Machine

/-! ## Uplink Combiner -/

theorem countLate_quiet (s : State) (g : Fin 12) : Quiet s (s.countLate g) :=
  (setSegment_quiet s _ _ (by exact fun h => h)).trans (listIf_quiet _ _ _)

theorem countSequence_quiet (s : State) (g : Fin 12) : Quiet s (s.countSequence g) :=
  (setSegment_quiet s _ _ (by exact fun h => h)).trans (listIf_quiet _ _ _)

theorem countFlushError_quiet (s : State) (v : Fin 8) : Quiet s (s.countFlushError v) :=
  (setService_quiet s _ _).trans (listIf_quiet _ _ _)

theorem countEviction_quiet (s : State) (v : Fin 8) : Quiet s (s.countEviction v) :=
  (setService_quiet s _ _).trans (listIf_quiet _ _ _)

theorem countFrame_quiet (s : State) (v : Fin 8) (o : SlotOutcome) : Quiet s (s.countFrame v o) :=
  (setService_quiet s _ _).trans (list_quiet _ _)

theorem allocate_quiet (s : State) (n w : Fin 16) (f : Nat) : Quiet s (s.allocate n w f) :=
  (setSlot_quiet s _ _).trans (list_quiet _ _)

theorem moveHorizon_quiet (s : State) (w : Fin 16) (f : Nat) : Quiet s (s.moveHorizon w f) :=
  (setWindow_quiet s _ _ (by exact fun h => h)).trans (listIf_quiet _ _ _)

theorem updateGate_quiet (s : State) (n : Fin 16) (g : Fin 12) : Quiet s (s.updateGate n g) :=
  (setSegment_quiet s _ _ (by exact fun h => h)).trans (listIf_quiet _ _ _)

theorem contribute_quiet (s : State) (n : Fin 16) (g : Fin 12) (a : Access) (o : Nat) :
    Quiet s (s.contribute n g a o).2 := by
  unfold State.contribute
  dsimp only
  split
  · exact countSequence_quiet _ _
  · exact countLate_quiet _ _
  · exact ((setSlot_quiet s _ _).trans (list_quiet _ _)).trans (countSequence_quiet _ _)
  · dsimp only
    split
    · exact ((setSlot_quiet s _ _).trans (list_quiet _ _)).trans (updateGate_quiet _ _ _)
    · exact (setSlot_quiet s _ _).trans (list_quiet _ _)

theorem accountSegment_quiet (t : Slot) (s : State) (g : Fin 12) : Quiet s (State.accountSegment t s g) := by
  unfold State.accountSegment
  dsimp only
  split
  · exact (setSegment_quiet s _ _ (by exact fun h => h)).trans (listIf_quiet _ _ _)
  · split
    · exact ((setSegment_quiet s _ _ (by exact fun h => h)).trans (listIf_quiet _ _ _)).trans (handovers_quiet _ _)
    · exact (setSegment_quiet s _ _ (by exact fun h => h)).trans (listIf_quiet _ _ _)

theorem accountMisses_quiet (s : State) (t : Slot) (o : SlotOutcome) : Quiet s (s.accountMisses t o) :=
  Quiet.ite (Quiet.refl s) (Quiet.foldl (accountSegment_quiet t) _ s)

theorem enterFlushing_quiet (s : State) (n : Fin 16) (o : SlotOutcome) : Quiet s (s.enterFlushing n o) := by
  unfold State.enterFlushing
  dsimp only
  refine Quiet.trans ?_ (accountMisses_quiet _ _ _)
  split
  · exact (((setSlot_quiet s _ _).trans (list_quiet _ _)).trans (countFrame_quiet _ _ _)).trans (raiseEvent_quiet _ _ _ _ _)
  · exact ((setSlot_quiet s _ _).trans (list_quiet _ _)).trans (countFrame_quiet _ _ _)

theorem beginFlush_quiet (s : State) (n : Fin 16) (o : SlotOutcome) : Quiet s (s.beginFlush n o).2 :=
  (enterFlushing_quiet s n o).trans (translate_quiet _ _ _ _ _ _)

theorem issueBursts_quiet (s : State) (n : Fin 16) (p : Addr) : Quiet s (s.issueBursts n p) :=
  Quiet.trans (setSlot_quiet s _ _) (Quiet.foldl (fun s k => snoop_quiet s (.flush n k) (burstAddr p k) 16) _ _)

theorem releaseRead_quiet (n : Fin 16) (s : State) (m : Fin 16) : Quiet s (State.releaseRead n s m) := by
  unfold State.releaseRead
  split
  · exact Quiet.ite (sendThrough_quiet _ _ _ _ _ _) (Quiet.refl s)
  · exact Quiet.refl s

theorem freeAfterFlush_quiet (s : State) (n : Fin 16) : Quiet s (s.freeAfterFlush n) :=
  ((((setService_quiet s _ _).trans (list_quiet _ _)).trans (setSlot_quiet _ _ _)).trans (list_quiet _ _)).trans
    (Quiet.foldl (releaseRead_quiet n) _ _)

theorem contributeWaiting_quiet (n : Fin 16) (s : State) (m : Fin 16) : Quiet s (State.contributeWaiting n s m) := by
  unfold State.contributeWaiting
  split
  · exact (contribute_quiet _ _ _ _ _).trans (respond_quiet _ _ _ _)
  · exact Quiet.refl s

theorem dropWaiting_quiet (s : State) (m : Fin 16) : Quiet s (s.dropWaiting m) := by
  unfold State.dropWaiting
  split
  · exact (countLate_quiet _ _).trans (respond_quiet _ _ _ _)
  · exact Quiet.refl s

theorem endAlloc_quiet (s : State) (p : PendingAlloc) : Quiet s (s.endAlloc p) := allocs_quiet s _

theorem serveAlloc_quiet (s : State) (p : PendingAlloc) : Quiet s (s.serveAlloc p) := by
  unfold State.serveAlloc
  split
  · exact ((endAlloc_quiet s p).trans (allocate_quiet _ _ _ _)).trans (Quiet.foldl (contributeWaiting_quiet _) _ _)
  · exact (endAlloc_quiet s p).trans (Quiet.foldl dropWaiting_quiet _ _)

theorem endFlush_quiet (n : Fin 16) : ∀ (fuel : Nat) (s : State), Quiet s (State.endFlush fuel n s)
  | 0, s => Quiet.refl s
  | fuel + 1, s => by
    unfold State.endFlush
    dsimp only
    split
    · exact freeAfterFlush_quiet s n
    · next p _ =>
      have q := (freeAfterFlush_quiet s n).trans (serveAlloc_quiet (s.freeAfterFlush n) p)
      split
      · have b := q.trans (beginFlush_quiet _ n .complete)
        split
        · exact b.trans (issueBursts_quiet _ _ _)
        · exact (b.trans (countFlushError_quiet _ _)).trans (endFlush_quiet n fuel _)
        · exact b
      · exact q

theorem flushEnds_quiet (s : State) (n : Fin 16) : Quiet s (s.flushEnds n) := endFlush_quiet n _ s

theorem flushRefused_quiet (s : State) (n : Fin 16) : Quiet s (s.flushRefused n) :=
  (countFlushError_quiet s _).trans (flushEnds_quiet _ _)

theorem startFlush_quiet (s : State) (n : Fin 16) (o : SlotOutcome) : Quiet s (s.startFlush n o) := by
  have b := beginFlush_quiet s n o
  unfold State.startFlush
  dsimp only
  split
  · exact b.trans (issueBursts_quiet _ _ _)
  · exact b.trans (flushRefused_quiet _ _)
  · exact b

theorem checkComplete_quiet (s : State) (n : Fin 16) : Quiet s (s.checkComplete n) :=
  Quiet.ite (startFlush_quiet s n _) (Quiet.refl s)

theorem answerFlush_quiet (s : State) (n k : Fin 16) (f : Flush) (ok : Bool) : Quiet s (s.answerFlush n k f ok) := by
  unfold State.answerFlush
  dsimp only
  have q : Quiet s (if (!ok && !f.failed) = true then
      ((s.endHazards (.flush n k)).raiseFault .flushError Config.ownNumber (burstAddr f.phys k)
        (some (s.slots.get n).window)).countFlushError (s.slots.get n).service
      else s.endHazards (.flush n k)) :=
    Quiet.ite (((endHazards_quiet s _).trans (raiseFault_quiet _ _ _ _ _)).trans (countFlushError_quiet _ _))
      (endHazards_quiet s _)
  exact Quiet.ite ((q.trans (setSlot_quiet _ _ _)).trans (flushEnds_quiet _ _)) (q.trans (setSlot_quiet _ _ _))

theorem dropLate_quiet (s : State) (m : Fin 16) (g : Fin 12) : Quiet s (s.dropLate m g) :=
  (countLate_quiet s g).trans (respond_quiet _ _ _ _)

theorem joinSlot_quiet (s : State) (n m : Fin 16) (g : Fin 12) (a : Access) (o : Nat) (fresh : Bool) :
    Quiet s (s.joinSlot n m g a o fresh) := by
  have q := (contribute_quiet s n g a o).trans (respond_quiet _ m true [])
  exact Quiet.ite (q.trans (checkComplete_quiet _ _)) q

theorem waitOnAlloc_quiet (s : State) (m : Fin 16) (p : PendingAlloc) (h : WinHit) : Quiet s (s.waitOnAlloc m p h) :=
  (allocs_quiet s _).trans (setStage_quiet _ _ _)

theorem createAlloc_quiet (s : State) (n m : Fin 16) (h : WinHit) : Quiet s (s.createAlloc n m h) := by
  have q := ((allocs_quiet s (s.allocs ++
    [{ window := h.window, frame := h.frame, slot := n, writers := [m] }])).trans (setStage_quiet _ m (.heldPending h))).trans
    (setSlot_quiet _ n { s.slots.get n with claimed := true })
  exact Quiet.ite (((q.trans (countEviction_quiet _ _)).trans (raiseEvent_quiet _ _ _ _ _)).trans (startFlush_quiet _ _ _)) q

theorem judgeHorizon_quiet (s : State) (m : Fin 16) (g : Fin 12) (a : Access) (h : WinHit) :
    Quiet s (s.judgeHorizon m g a h) := by
  unfold State.judgeHorizon
  dsimp only
  split
  · have q := moveHorizon_quiet s h.window h.frame
    split
    · exact (q.trans (allocate_quiet _ _ _ _)).trans (joinSlot_quiet _ _ _ _ _ _ _)
    · split
      · exact q.trans (createAlloc_quiet _ _ _ _)
      · exact Quiet.refl s
  · exact dropLate_quiet _ _ _

theorem judgeUplink_quiet (s : State) (m : Fin 16) (g : Fin 12) (a : Access) (h : WinHit) :
    Quiet s (s.judgeUplink m g a h) := by
  unfold State.judgeUplink
  split
  · exact dropLate_quiet _ _ _
  · split
    · exact Quiet.ite (joinSlot_quiet _ _ _ _ _ _ _) (dropLate_quiet _ _ _)
    · split
      · exact waitOnAlloc_quiet _ _ _ _
      · exact judgeHorizon_quiet _ _ _ _ _

theorem tellPartial_quiet (s : State) (g : Fin 12) (h : WinHit) : Quiet s (s.tellPartial g h) := by
  unfold State.tellPartial
  split
  · exact Quiet.refl s
  · exact Quiet.ite (((setSlot_quiet s _ _).trans (list_quiet _ _)).trans (checkComplete_quiet _ _)) (Quiet.refl s)

theorem treatUplinkWrite_quiet (s : State) (m : Fin 16) (a : Access) (h : WinHit) : Quiet s (s.treatUplinkWrite m a h) := by
  have q (k : FaultKind) := (raiseFault_quiet s k m.val a.addr (some h.window)).trans (respondDropped_quiet _ m a)
  unfold State.treatUplinkWrite
  split
  · exact q _
  · split
    · exact q _
    · split
      · exact (q _).trans (tellPartial_quiet _ _ _)
      · exact judgeUplink_quiet _ _ _ _ _

theorem treatUplinkRead_quiet (s : State) (m : Fin 16) (a : Access) (h : WinHit) : Quiet s (s.treatUplinkRead m a h) := by
  unfold State.treatUplinkRead
  split
  · exact sendThrough_quiet _ _ _ _ _ _
  · exact Quiet.ite (respond_quiet _ _ _ _) ((setSlot_quiet s _ _).trans (setStage_quiet _ _ _))

theorem leaveSlot_quiet (g : Fin 12) (s : State) (n : Fin 16) : Quiet s (State.leaveSlot g s n) :=
  (setSlot_quiet s _ _).trans (list_quiet _ _)

theorem depart_quiet (s : State) (g : Fin 12) : Quiet s (s.depart g) :=
  (Quiet.foldl (leaveSlot_quiet g) _ s).trans (Quiet.foldl checkComplete_quiet _ _)

theorem retireSlot_quiet (w : Fin 16) (s : State) (n : Fin 16) : Quiet s (State.retireSlot w s n) :=
  Quiet.ite (startFlush_quiet s n _) (Quiet.refl s)

theorem retireSlots_quiet (s : State) (w : Fin 16) : Quiet s (s.retireSlots w) := Quiet.foldl (retireSlot_quiet w) _ s

/-! ## Downlink Equalizer -/

theorem treatDownlinkRead_quiet (s : State) (m : Fin 16) (a : Access) (h : WinHit) : Quiet s (s.treatDownlinkRead m a h) := by
  unfold State.treatDownlinkRead
  split
  · exact sendThrough_quiet _ _ _ _ _ _
  · split
    · split
      · exact underrun_quiet _ _ _ _
      · exact sendThrough_quiet _ _ _ _ _ _
    · exact sendThrough_quiet _ _ _ _ _ _

theorem treatDownlinkWrite_quiet (s : State) (m : Fin 16) (a : Access) (h : WinHit) :
    Quiet s (s.treatDownlinkWrite m a h) := sendThrough_quiet _ _ _ _ _ _

/-! ## Break-In Controller -/

theorem raiseCue_quiet (s : State) (k : EventKind) (c : Fin 32) (r : Nat) : Quiet s (s.raiseCue k c r) :=
  raiseEvent_quiet _ _ _ _ _

theorem endCheck_quiet (s : State) (c : Fin 32) (r : CueReason) : Quiet s (s.endCheck c r) :=
  Quiet.ite (((setCue_quiet s _ _ (by exact fun h => h)).trans (list_quiet _ _)).trans (raiseCue_quiet _ _ _ _)) (Quiet.refl s)

theorem dropWaits_quiet (s : State) (c : Fin 32) : Quiet s (s.dropWaits c) :=
  (setCue_quiet s _ _ (by exact fun h => h)).trans (listIf_quiet _ _ _)

theorem cancelCue_quiet (s : State) (c : Fin 32) : Quiet s (s.cancelCue c) :=
  (dropWaits_quiet s c).trans (endCheck_quiet _ _ _)

theorem refuseStart_quiet (s : State) (c : Fin 32) (r : CueReason) : Quiet s (s.refuseStart c r) :=
  ((setCue_quiet s _ _ (by exact fun h => h)).trans (listIf_quiet _ _ _)).trans (raiseCue_quiet _ _ _ _)

theorem acceptStart_quiet (s : State) (c : Fin 32) : Quiet s (s.acceptStart c) :=
  (setCue_quiet s _ _ (by exact fun h => h)).trans (list_quiet _ _)

theorem cancelIfQueued_quiet (s : State) (c : Fin 32) : Quiet s (s.cancelIfQueued c) :=
  Quiet.ite (cancelCue_quiet s c) (Quiet.refl s)

theorem startCue_quiet (s : State) (c : Fin 32) (host : Bool) : Quiet s (s.startCue c host) := by
  unfold State.startCue
  split
  · exact acceptStart_quiet s c
  · exact Quiet.ite ((refuseStart_quiet s c _).trans (Quiet.foldl cancelIfQueued_quiet _ _)) (refuseStart_quiet s c _)

theorem dropStack_quiet (c : Fin 32) (s : State) (z : Fin 8) : Quiet s (State.dropStack c s z) :=
  Quiet.ite ((setZone_quiet s _ _ (by exact fun _ h => h)).trans (list_quiet _ _)) (Quiet.refl s)

theorem dropStacks_quiet (s : State) (c : Fin 32) : Quiet s ((List.finRange 8).foldl (State.dropStack c) s) :=
  Quiet.foldl (dropStack_quiet c) _ s

/-- Clearing a cue's stack entries leaves every cue entry alone (R118). -/
theorem dropStacks_cues (c : Fin 32) (l : List (Fin 8)) : ∀ s : State, (l.foldl (State.dropStack c) s).cues = s.cues := by
  induction l with
  | nil => exact fun _ => rfl
  | cons z zs ih =>
    intro s
    refine (ih _).trans ?_
    unfold State.dropStack
    dsimp only
    split <;> rfl

theorem stopCue_quiet (s : State) (c : Fin 32) : Quiet s (s.stopCue c) := by
  have q (st : CueState) : Quiet s ((((List.finRange 8).foldl (State.dropStack c) s).setCue c
      { s.cues.get c with waiting := 0, stopped := true, state := st }).list (.cue c)) :=
    ((dropStacks_quiet s c).trans (setCue_quiet _ _ _ (by rw [dropStacks_cues]; exact fun h => h))).trans (list_quiet _ _)
  unfold State.stopCue
  dsimp only
  split
  · exact Quiet.refl s
  · exact Quiet.refl s
  · exact (q _).trans (endCheck_quiet _ _ _)
  · exact Quiet.ite (q _) ((q _).trans (endCheck_quiet _ _ _))

theorem followTiming_quiet (b s : State) (z : Fin 8) : Quiet s (State.followTiming b s z) :=
  Quiet.ite (Quiet.refl s)
    ((setZone_quiet s _ _ (by exact fun _ h => ⟨h.1, nofun, nofun⟩)).trans (listIf_quiet _ _ _))

theorem afterTiming_quiet (b s : State) : Quiet s (State.afterTiming b s) := Quiet.foldl (followTiming_quiet b) _ s

theorem progress_quiet (s : State) (z : Fin 8) : Quiet s (s.progress z) := by
  unfold State.progress
  dsimp only
  split
  · exact Quiet.refl s
  · exact Quiet.ite (((setZone_quiet s _ _ (by exact fun _ h => h)).trans (list_quiet _ _)).trans (endCheck_quiet _ _ _)) (setZone_quiet s _ _ (by exact fun _ h => h))

theorem startIn_quiet (s : State) (z : Fin 8) (c : Fin 32) (l : List StackEntry) : Quiet s (s.startIn z c l) := by
  unfold State.startIn
  dsimp only
  split
  · exact (((setZone_quiet s _ _ (by exact fun _ h => h)).trans (setCue_quiet _ _ _ (by exact fun h => h))).trans (list_quiet _ _)).trans (raiseCue_quiet _ _ _ _)
  · exact ((setZone_quiet s _ _ (by exact fun _ h => h)).trans (setCue_quiet _ _ _ (by exact fun h => h))).trans (list_quiet _ _)

theorem select_quiet (s : State) (z : Fin 8) : Quiet s (s.select z) := by
  unfold State.select
  dsimp only
  split
  · split
    · exact (list_quiet _ _).trans (startIn_quiet _ _ _ _)
    · exact Quiet.refl s
  · split
    · split
      · exact startIn_quiet _ _ _ _
      · exact Quiet.refl s
    · split
      · exact startIn_quiet _ _ _ _
      · exact (setZone_quiet _ _ _ (by exact fun _ h => h)).trans (list_quiet _ _)

/-- A ramp step stays within the range of the gain and its target (R13). -/
theorem rampStep_le (target gd step : Nat) (ht : target ≤ 16384) (hg : gd ≤ 16384) : rampStep target gd step ≤ 16384 := by
  unfold rampStep
  split
  · omega
  · split <;> omega

/-- The duck target of a zone lies in the range of the gain (R13). -/
theorem duckTarget_le (s : State) (z : Fin 8) (h : ∀ c, (s.cues.get c).duck ≤ 16384) : s.duckTarget z ≤ 16384 := by
  unfold State.duckTarget
  split
  · exact h _
  · exact Nat.le_refl _

/-- The Gd of a new frame record is the zone's (R125, R129). -/
@[simp] theorem recordFor_gd (s : State) (z : Fin 8) (f : Nat) : (s.recordFor z f).gd = (s.zones.get z).gd := by
  unfold State.recordFor
  dsimp only
  split <;> rfl

theorem ramp_quiet (s : State) (z : Fin 8) : Quiet s (s.ramp z) :=
  setZone_quiet s _ _ (by exact fun c h => ⟨rampStep_le _ _ _ (duckTarget_le s z c) h.1, h.2⟩)

theorem formRecord_quiet (s : State) (z : Fin 8) (f : Nat) : Quiet s (s.formRecord z f) := by
  unfold State.formRecord
  dsimp only
  split
  · next c hc =>
    refine Quiet.trans (setZone_quiet _ _ _ ?_) (list_quiet _ _)
    intro _ h
    refine ⟨h.1, ?_, ?_⟩
    · rintro _ ⟨⟩
      exact (recordFor_gd s z _).le.trans h.1
    · rintro _ ⟨⟩
      exact h.2.1 c hc
  · exact Quiet.refl s

theorem advance_quiet (s : State) (z : Fin 8) (f : Nat) : Quiet s (s.advance z f) :=
  (((progress_quiet s z).trans (select_quiet _ _)).trans (ramp_quiet _ _)).trans (formRecord_quiet _ _ _)

theorem advanceBy_quiet (z : Fin 8) (f : Nat) : ∀ (d : Nat) (s : State), Quiet s (State.advanceBy z f d s)
  | 0, s => Quiet.refl s
  | d + 1, s => (advance_quiet s z f).trans (advanceBy_quiet z f d _)

theorem countLag_quiet (s : State) (g : Fin 12) : Quiet s (s.countLag g) :=
  (setSegment_quiet s _ _ (by exact fun h => h)).trans (listIf_quiet _ _ _)

theorem judgeTiming_quiet (s : State) (g : Fin 12) (z : Fin 8) (h : WinHit) : Quiet s (s.judgeTiming g z h).2 := by
  unfold State.judgeTiming
  dsimp only
  split
  · refine Quiet.trans (setZone_quiet _ _ _ ?_) (list_quiet _ _)
    intro _ k
    refine ⟨k.1, ?_, nofun⟩
    rintro _ ⟨⟩
    exact (recordFor_gd s z _).le.trans k.1
  · split
    · exact Quiet.refl s
    · split
      · exact Quiet.refl s
      · split
        · exact advanceBy_quiet _ _ _ _
        · exact countLag_quiet _ _

theorem judgeProgram_quiet (s : State) (g : Fin 12) (h : WinHit) : Quiet s (s.judgeProgram g h).2 := by
  unfold State.judgeProgram
  dsimp only
  split
  · split
    · exact judgeTiming_quiet _ _ _ _
    · exact Quiet.refl s
  · exact Quiet.refl s

theorem treatProgramRead_quiet (s : State) (m : Fin 16) (a : Access) (h : WinHit) : Quiet s (s.treatProgramRead m a h) := by
  unfold State.treatProgramRead
  split
  · exact sendThrough_quiet _ _ _ _ _ _
  · exact (judgeProgram_quiet _ _ _).trans (sendThrough_quiet _ _ _ _ _ _)

theorem treatProgramWrite_quiet (s : State) (m : Fin 16) (a : Access) (h : WinHit) : Quiet s (s.treatProgramWrite m a h) :=
  sendThrough_quiet _ _ _ _ _ _

/-! ## Segment Supervisor -/

theorem raiseSegment_quiet (s : State) (k : EventKind) (g : Fin 12) : Quiet s (s.raiseSegment k g) :=
  raiseEvent_quiet _ _ _ _ _

theorem restartTimer_quiet (s : State) (g : Fin 12) (h : (s.segments.get g).state = .active) :
    Quiet s (s.restartTimer g) :=
  setSegment_quiet s _ _ (by exact fun k => ⟨k.1, fun _ => h⟩)

theorem resume_quiet (s : State) (g : Fin 12) (h : (s.segments.get g).state ≠ .offline) : Quiet s (s.resume g) :=
  ((setSegment_quiet s _ _ (by exact fun k => ⟨⟨fun _ => nofun, fun _ => k.1.2 h⟩, fun _ => rfl⟩)).trans
    (raiseSegment_quiet _ _ _)).trans (list_quiet _ _)

theorem noticeSegment_quiet (s : State) (g : Fin 12) : Quiet s (s.noticeSegment g) := by
  unfold State.noticeSegment
  split
  · exact Quiet.refl s
  · next h => exact restartTimer_quiet s g h
  · next h => exact resume_quiet s g (by rw [h]; exact nofun)
  · exact Quiet.refl s

theorem noticeAccess_quiet (s : State) (m : Fin 16) : Quiet s (s.noticeAccess m) := by
  unfold State.noticeAccess
  split
  · exact Quiet.refl s
  · exact noticeSegment_quiet s _

theorem enableSegment_quiet (s : State) (g : Fin 12) : Quiet s (s.enableSegment g) :=
  Quiet.ite ((setSegment_quiet s _ _ (by exact fun _ => ⟨⟨fun _ => nofun, fun _ => rfl⟩, fun _ => rfl⟩)).trans
    (list_quiet _ _)) (Quiet.refl s)

end Sys2Proof.Machine
end

