-- ==== Sys2Proof/Laws/Calm.lean ====
section
/-! SUPPORT. What the Control Region Monitor, Incident Control and the resets can do: one lemma per shared operation. What
only moves records is `Quiet`; what also moves the latch, the barred list, the request block or the consumer index is
`Calm`. -/

namespace Sys2Proof.Machine

/-- What every hand-over of an access leaves alone, and the bounds that it keeps: the pins and straps, the timebase, the
line, the requests at the port, the producer index and the event write in flight stand as they did; the bounds of `Quiet`
hold; and while the incident state is NORMAL no master is barred, if that held before. -/
structure Calm (s t : State) : Prop where
  pending : t.pending = s.pending
  resetLow : t.resetLow = s.resetLow
  line : t.line = s.line
  baseStraps : t.baseStraps = s.baseStraps
  masterStraps : t.masterStraps = s.masterStraps
  dividerStraps : t.dividerStraps = s.dividerStraps
  timebase : t.timebase = s.timebase
  portWaiting : t.portWaiting = s.portWaiting
  load : t.load ≤ s.load
  qualified : t.qualified = s.qualified
  qualTimer : t.qualTimer = s.qualTimer
  producer : t.producer = s.producer
  eventInFlight : t.eventInFlight = s.eventInFlight
  listed : s.listedIds.Nodup → t.listedIds.Nodup
  events : s.events <+: t.events
  queues : ∀ m, (t.ports.get m).queue.length ≤ (s.ports.get m).queue.length
  translations : s.translations.length ≤ 8 → t.translations.length ≤ 8
  cache : s.cache.length ≤ 8 → t.cache.length ≤ 8
  barring : (s.incident = false → s.barred = 0) → t.incident = false → t.barred = 0
  windows : s.WindowSound → t.WindowSound
  segments : s.SegmentSound → t.SegmentSound
  gains : s.GainSound → t.GainSound

theorem Calm.refl (s : State) : Calm s s := by
  constructor <;> first | rfl | exact fun h => h | exact fun _ => Nat.le_refl _

theorem Calm.trans {s t u : State} (h : Calm s t) (k : Calm t u) : Calm s u where
  pending := k.pending.trans h.pending
  resetLow := k.resetLow.trans h.resetLow
  line := k.line.trans h.line
  baseStraps := k.baseStraps.trans h.baseStraps
  masterStraps := k.masterStraps.trans h.masterStraps
  dividerStraps := k.dividerStraps.trans h.dividerStraps
  timebase := k.timebase.trans h.timebase
  portWaiting := k.portWaiting.trans h.portWaiting
  load := k.load.trans h.load
  qualified := k.qualified.trans h.qualified
  qualTimer := k.qualTimer.trans h.qualTimer
  producer := k.producer.trans h.producer
  eventInFlight := k.eventInFlight.trans h.eventInFlight
  listed := fun x => k.listed (h.listed x)
  events := h.events.trans k.events
  queues := fun m => (k.queues m).trans (h.queues m)
  translations := fun x => k.translations (h.translations x)
  cache := fun x => k.cache (h.cache x)
  barring := fun x => k.barring (h.barring x)
  windows := fun x => k.windows (h.windows x)
  segments := fun x => k.segments (h.segments x)
  gains := fun x => k.gains (h.gains x)

theorem Calm.ite {s t u : State} {p : Prop} [Decidable p] (h : Calm s t) (k : Calm s u) : Calm s (if p then t else u) := by
  split
  · exact h
  · exact k

theorem Calm.foldl {α : Type} {f : State → α → State} (h : ∀ s x, Calm s (f s x)) (l : List α) :
    ∀ s, Calm s (l.foldl f s) := by
  induction l with
  | nil => exact Calm.refl
  | cons x xs ih => exact fun s => (h s x).trans (ih (f s x))

theorem Quiet.incident {s t : State} (h : Quiet s t) : t.incident = s.incident := by
  unfold State.incident
  rw [h.latch, h.qualified]

theorem Quiet.calm {s t : State} (h : Quiet s t) : Calm s t where
  pending := h.pending
  resetLow := h.resetLow
  line := h.line
  baseStraps := h.baseStraps
  masterStraps := h.masterStraps
  dividerStraps := h.dividerStraps
  timebase := h.timebase
  portWaiting := h.portWaiting
  load := h.load
  qualified := h.qualified
  qualTimer := h.qualTimer
  producer := h.producer
  eventInFlight := h.eventInFlight
  listed := h.listed
  events := h.events
  queues := h.queues
  translations := h.translations
  cache := h.cache
  barring := fun x y => by rw [h.barred]; exact x (h.incident ▸ y)
  windows := h.windows
  segments := h.segments
  gains := h.gains

/-! ## Incident Control -/

theorem autoStart_quiet (s : State) (c : Fin 32) : Quiet s (s.autoStart c) :=
  Quiet.ite (startCue_quiet s c false) (Quiet.refl s)

theorem exitCue_quiet (s : State) (c : Fin 32) : Quiet s (s.exitCue c) :=
  Quiet.ite ((dropWaits_quiet s c).trans (endCheck_quiet _ _ _)) (Quiet.refl s)

theorem refusals_calm (s : State) (v : Vector Nat 16) : Calm s { s with refusals := v } := by
  constructor <;> first | rfl | exact fun h => h | exact fun _ => Nat.le_refl _

theorem autoStarts_quiet (s : State) : Quiet s ((List.finRange 32).foldl State.autoStart s) :=
  Quiet.foldl autoStart_quiet _ s

theorem exitCues_quiet (s : State) : Quiet s ((List.finRange 32).foldl State.exitCue s) := Quiet.foldl exitCue_quiet _ s

theorem enterIncident_calm (s : State) (c : Cause) : Calm s (s.enterIncident c) := by
  have q := (raiseEvent_quiet s .incidentEnter c.object 0 c.reason).calm
  have r := refusals_calm (s.raiseEvent .incidentEnter c.object 0 c.reason) (Vector.replicate 16 0)
  have a := autoStarts_quiet { s.raiseEvent .incidentEnter c.object 0 c.reason with refusals := Vector.replicate 16 0 }
  exact (q.trans r).trans a.calm

/-- The entry leaves the latch, the line and the barred list alone (R143). -/
theorem enterIncident_state (s : State) (c : Cause) :
    (s.enterIncident c).latch = s.latch ∧ (s.enterIncident c).qualified = s.qualified ∧
      (s.enterIncident c).barred = s.barred := by
  have q := raiseEvent_quiet s .incidentEnter c.object 0 c.reason
  have r := autoStarts_quiet
    { s.raiseEvent .incidentEnter c.object 0 c.reason with refusals := Vector.replicate 16 0 }
  exact ⟨r.latch.trans q.latch, r.qualified.trans q.qualified, r.barred.trans q.barred⟩

theorem exitIncident_calm (s : State) (c : Cause) : Calm s (s.exitIncident c) := by
  have q := (raiseEvent_quiet s .incidentExit c.object 0 c.reason).trans (exitCues_quiet _)
  unfold State.exitIncident
  revert q
  generalize (List.finRange 32).foldl State.exitCue _ = t
  intro q
  have c' := q.calm
  exact ⟨c'.pending, c'.resetLow, c'.line, c'.baseStraps, c'.masterStraps, c'.dividerStraps, c'.timebase, c'.portWaiting,
    c'.load, c'.qualified, c'.qualTimer, c'.producer, c'.eventInFlight, c'.listed, c'.events, c'.queues, c'.translations,
    c'.cache, fun _ _ => rfl, c'.windows, c'.segments, c'.gains⟩

/-- The exit leaves no master barred, with no refusals, and leaves the latch and the line alone (R145, R146). -/
theorem exitIncident_state (s : State) (c : Cause) :
    (s.exitIncident c).latch = s.latch ∧ (s.exitIncident c).qualified = s.qualified ∧ (s.exitIncident c).barred = 0 ∧
      (s.exitIncident c).refusals = Vector.replicate 16 0 := by
  have q := (raiseEvent_quiet s .incidentExit c.object 0 c.reason).trans (exitCues_quiet _)
  unfold State.exitIncident
  revert q
  generalize (List.finRange 32).foldl State.exitCue _ = t
  intro q
  exact ⟨q.latch, q.qualified, rfl, rfl⟩

/-- What follows a change of the latch or the qualified level keeps NORMAL free of barred masters, and every bound
(R142). -/
theorem rederive_calm (b s : State) (c : Cause) (h : (b.incident = false → b.barred = 0)) (hb : s.barred = b.barred) :
    Calm s (State.rederive b s c) ∧
      ((State.rederive b s c).incident = false → (State.rederive b s c).barred = 0) := by
  unfold State.rederive
  have l (t : State) := list_quiet t .status
  split
  · next k =>
    refine ⟨(enterIncident_calm s c).trans (l _).calm, fun i => ?_⟩
    have e := enterIncident_state s c
    have : (s.enterIncident c).incident = s.incident := by unfold State.incident; rw [e.1, e.2.1]
    rw [(l _).incident, this, k.2] at i
    cases i
  · split
    · exact ⟨(exitIncident_calm s c).trans (l _).calm, fun _ => by rw [(l _).barred]; exact (exitIncident_state s c).2.2.1⟩
    · next k1 k2 =>
      refine ⟨(l _).calm, fun i => ?_⟩
      rw [(l _).barred, hb]
      rw [(l _).incident] at i
      apply h
      cases hi : b.incident
      · rfl
      · exact absurd ⟨hi, i⟩ k2

theorem setLatch_calm (s : State) (m : Fin 16) : Calm s (s.setLatch m) := by
  unfold State.setLatch
  split
  · exact Calm.refl s
  · have u : ∀ h, Calm s (State.rederive s { s with latch := true } (.latch m)) := fun h => by
      have r := rederive_calm s { s with latch := true } (.latch m) h rfl
      exact ⟨r.1.pending, r.1.resetLow, r.1.line, r.1.baseStraps, r.1.masterStraps, r.1.dividerStraps, r.1.timebase,
        r.1.portWaiting, r.1.load, r.1.qualified, r.1.qualTimer, r.1.producer, r.1.eventInFlight, r.1.listed, r.1.events,
        r.1.queues, r.1.translations, r.1.cache, fun _ => r.2, r.1.windows, r.1.segments, r.1.gains⟩
    by_cases h : s.incident = false → s.barred = 0
    · exact u h
    · have e : Calm { s with latch := true } (State.rederive s { s with latch := true } (.latch m)) := by
        unfold State.rederive
        refine Calm.trans ?_ (list_quiet _ _).calm
        exact Calm.ite (enterIncident_calm _ _) (Calm.ite (exitIncident_calm _ _) (Calm.refl _))
      exact ⟨e.pending, e.resetLow, e.line, e.baseStraps, e.masterStraps, e.dividerStraps, e.timebase,
        e.portWaiting, e.load, e.qualified, e.qualTimer, e.producer, e.eventInFlight, e.listed, e.events,
        e.queues, e.translations, e.cache, fun x => absurd x h, e.windows, e.segments, e.gains⟩

theorem clearLatch_calm (s : State) (m : Fin 16) : Calm s (s.clearLatch m) := by
  unfold State.clearLatch
  split
  · have e : Calm { s with latch := false } (State.rederive s { s with latch := false } (.latch m)) := by
      unfold State.rederive
      refine Calm.trans ?_ (list_quiet _ _).calm
      exact Calm.ite (enterIncident_calm _ _) (Calm.ite (exitIncident_calm _ _) (Calm.refl _))
    refine ⟨e.pending, e.resetLow, e.line, e.baseStraps, e.masterStraps, e.dividerStraps, e.timebase,
      e.portWaiting, e.load, e.qualified, e.qualTimer, e.producer, e.eventInFlight, e.listed, e.events,
      e.queues, e.translations, e.cache, fun x => ?_, e.windows, e.segments, e.gains⟩
    exact (rederive_calm s { s with latch := false } (.latch m) x rfl).2
  · exact Calm.refl s

/-- A refusal bars at most while the incident state is INCIDENT (R150). -/
theorem refuse_calm (s : State) (m : Fin 16) (h : s.incident = true) : Calm s (s.refuse m) := by
  have b : ∀ (t : State) (r : Vector Nat 16) (d : BitVec 16), Quiet { s with refusals := r, barred := d } t → Calm s t :=
    fun t r d q => ⟨q.pending, q.resetLow, q.line, q.baseStraps, q.masterStraps, q.dividerStraps, q.timebase, q.portWaiting,
      q.load, q.qualified, q.qualTimer, q.producer, q.eventInFlight, q.listed, q.events, q.queues, q.translations, q.cache,
      fun _ y => absurd (y.symm.trans (q.incident.trans h)) (by simp), q.windows, q.segments, q.gains⟩
  unfold State.refuse
  dsimp only
  split
  · exact b _ _ _ ((raiseEvent_quiet _ .masterBarred m.val 0 0).trans (list_quiet _ .status))
  · exact refusals_calm s _

theorem protectedWrites_calm (s : State) (n : Nat) : Calm s { s with protectedWrites := n } := by
  constructor <;> first | rfl | exact fun h => h | exact fun _ => Nat.le_refl _

theorem countProtected_calm (s : State) (m : Fin 16) (a : Addr) (h : s.incident = true) : Calm s (s.countProtected m a) := by
  have q := raiseFault_quiet s .protectedWrite m.val a none
  have l := listIf_quiet { s.raiseFault .protectedWrite m.val a none with
      protectedWrites := bump (s.raiseFault .protectedWrite m.val a none).protectedWrites }
    ((s.raiseFault .protectedWrite m.val a none).protectedWrites < Config.counterTop) .status
  refine ((q.calm.trans (protectedWrites_calm _ _)).trans l.calm).trans (refuse_calm _ m ?_)
  rw [l.incident]
  exact q.incident.trans h

/-! ## Departures -/

theorem departures_calm (s : State) (l : List (Fin 12)) : Calm s { s with departures := l } := by
  constructor <;> first | rfl | exact fun h => h | exact fun _ => Nat.le_refl _

theorem noticeDeparture_calm (s : State) (g : Fin 12) (st : SegState) : Calm s (s.noticeDeparture g st) :=
  Calm.ite (departures_calm s _) (Calm.refl s)

theorem disableSegment_calm (s : State) (g : Fin 12) : Calm s (s.disableSegment g) :=
  Calm.ite (Calm.refl s)
    (((setSegment_quiet s _ _ (by exact fun _ => ⟨⟨nofun, fun h => absurd rfl h⟩, fun h => absurd rfl h⟩)).calm.trans
      (noticeDeparture_calm _ _ _)).trans (list_quiet _ _).calm)

theorem stall_calm (s : State) (g : Fin 12) (h : (s.segments.get g).state ≠ .offline) : Calm s (s.stall g) :=
  (((setSegment_quiet s _ _ (by exact fun k => ⟨⟨fun _ => nofun, fun _ => k.1.2 h⟩, fun h => absurd rfl h⟩)).trans
    (raiseSegment_quiet _ _ _)).calm.trans (noticeDeparture_calm _ _ _)).trans (list_quiet _ _).calm

theorem exclude_calm (s : State) (g : Fin 12) (h : (s.segments.get g).state ≠ .offline) : Calm s (s.exclude g) :=
  (((setSegment_quiet s _ _ (by exact fun k => ⟨⟨fun _ => nofun, fun _ => k.1.2 h⟩, fun h => absurd rfl h⟩)).trans
    (raiseSegment_quiet _ _ _)).calm.trans (noticeDeparture_calm _ _ _)).trans (list_quiet _ _).calm

theorem judgeHandover_calm (s : State) (g : Fin 12) : Calm s (s.judgeHandover g) := by
  unfold State.judgeHandover
  split
  · exact Calm.refl s
  · next h => exact Calm.ite (exclude_calm s g (by rw [h]; exact nofun)) (Calm.refl s)
  · next h => exact Calm.ite (exclude_calm s g (by rw [h]; exact nofun)) (Calm.refl s)
  · exact Calm.refl s

theorem takeHandover_calm (s : State) (g : Fin 12) : Calm s (s.takeHandover g) :=
  Calm.ite ((handovers_quiet s _).calm.trans (judgeHandover_calm _ _)) (Calm.refl s)

theorem takeDeparture_calm (s : State) (g : Fin 12) : Calm s (s.takeDeparture g) :=
  Calm.ite ((departures_calm s _).trans (depart_quiet _ _).calm) (Calm.refl s)

/-- A departure notice that has been taken is no longer given (R104). -/
theorem takeDeparture_departures (s : State) (g : Fin 12) : (s.takeDeparture g).departures = s.departures.erase g := by
  unfold State.takeDeparture
  split
  · exact (depart_quiet { s with departures := s.departures.erase g } g).departures
  · next h => exact (List.erase_of_not_mem fun k => h (List.elem_eq_true_of_mem k)).symm

theorem takeDepartures_calm (gs : List (Fin 12)) (s : State) : Calm s (s.takeDepartures gs) :=
  Calm.foldl takeDeparture_calm gs s

/-- Once every notice that has been given is taken, none is left (R104). -/
theorem takeDepartures_departures (gs : List (Fin 12)) :
    ∀ s : State, s.departures = gs → (s.takeDepartures gs).departures = [] := by
  induction gs with
  | nil => exact fun _ h => h
  | cons g gs ih =>
    intro s h
    exact ih (s.takeDeparture g) (by rw [takeDeparture_departures, h, List.erase_cons_head])

/-! ## Control Region Monitor: records -/

theorem listDirty_quiet (s : State) (id : RecordId) (d : List Nat) : Quiet s (s.listDirty id d) :=
  Quiet.ite (Quiet.refl s) (listBytes_quiet s id d)

theorem refuseWindow_quiet (s : State) (w : Fin 16) (r : Nat) : Quiet s (s.refuseWindow w r) :=
  (raiseEvent_quiet s _ _ _ _).trans (list_quiet _ _)

theorem acceptWindow_quiet (s : State) (w : Fin 16) (h : (s.windows.get w).retiring = false) :
    Quiet s (s.acceptWindow w) :=
  ((setWindow_quiet s w { s.windows.get w with enable := true, horizon := none }
    (fun k => ⟨fun x => absurd (h.symm.trans x.2) (by simp), k.2⟩)).trans (list_quiet _ (.window w))).trans
    (afterTiming_quiet s _)

theorem enableWindow_quiet (s : State) (w : Fin 16) : Quiet s (s.enableWindow w) := by
  unfold State.enableWindow
  split
  · exact refuseWindow_quiet _ _ _
  · next h =>
    split
    · exact Quiet.refl s
    · split
      · exact refuseWindow_quiet _ _ _
      · exact acceptWindow_quiet _ _ (by simpa using h)

theorem beginRetiring_quiet (s : State) (w : Fin 16) : Quiet s (s.beginRetiring w) :=
  (setWindow_quiet s _ _ (by exact fun h => ⟨fun x => Bool.noConfusion x.1, h.2⟩)).trans (list_quiet _ _)

theorem retireWindows_quiet (s : State) (ws : List (Fin 16)) : Quiet s (s.retireWindows ws) :=
  (((Quiet.foldl beginRetiring_quiet ws s).trans (afterTiming_quiet s _)).trans (Quiet.foldl retireSlots_quiet ws _)).trans
    (Quiet.foldl endRetirement_quiet ws _)

theorem disableWindow_quiet (s : State) (w : Fin 16) : Quiet s (s.disableWindow w) :=
  Quiet.ite (retireWindows_quiet s _) (Quiet.refl s)

theorem enableService_quiet (s : State) (v : Fin 8) : Quiet s (s.enableService v) :=
  Quiet.ite (Quiet.refl s)
    ((setService_quiet s v { s.services.get v with enable := true }).trans (afterTiming_quiet s _))

theorem listEnable_quiet (s : State) (w : Fin 16) : Quiet s (s.listEnable w) := listBytes_quiet s _ _

theorem disableService_quiet (s : State) (v : Fin 8) : Quiet s (s.disableService v) :=
  Quiet.ite
    ((((setService_quiet s v { s.services.get v with enable := false }).trans (afterTiming_quiet s _)).trans
      (Quiet.foldl listEnable_quiet _ _)).trans (retireWindows_quiet _ _)) (Quiet.refl s)

theorem actEnable_quiet (s : State) (bs : List WByte) (id : RecordId) (on off : State → State) (h : ∀ s, Quiet s (on s))
    (k : ∀ s, Quiet s (off s)) : Quiet s (s.actEnable bs id on off) := by
  unfold State.actEnable
  split
  · exact Quiet.refl s
  · exact Quiet.ite (k s) (h s)

theorem actEnable_calm (s : State) (bs : List WByte) (id : RecordId) (on off : State → State) (h : ∀ s, Calm s (on s))
    (k : ∀ s, Calm s (off s)) : Calm s (s.actEnable bs id on off) := by
  unfold State.actEnable
  split
  · exact Calm.refl s
  · exact Calm.ite (k s) (h s)

/-- Four bytes make a number below 2^32 (R155). -/
theorem read32_lt (raw : Nat → Byte) (o : Nat) : read32 raw o < 2 ^ 32 := by
  have h (k : Nat) := (raw k).isLt
  have := h o; have := h (o + 1); have := h (o + 2); have := h (o + 2 + 1)
  unfold read32 read16
  omega

/-- A decoded window entry keeps its enable and retiring fields, and its size code and base are normalised (R158). -/
theorem decodeWindow_sound (raw : Nat → Byte) (e : WindowEntry) (h : e.Sound) : (decodeWindow raw e).Sound := by
  refine ⟨h.1, ?_, ?_⟩
  · simp only [decodeWindow]
    split <;> omega
  · simp only [decodeWindow, BitVec.toNat_ofNat]
    have aligned (b k : Nat) (hb : b < 2 ^ 32) : (b - b % k) % 2 ^ 32 % k = 0 := by
      have small : b - b % k < 2 ^ 32 := lt_of_le_of_lt (Nat.sub_le _ _) hb
      rw [Nat.mod_eq_of_lt small]
      exact Nat.sub_mod_eq_zero_of_mod_eq (Nat.mod_mod _ _).symm
    exact aligned _ _ (read32_lt raw 4)

/-- A decoded cue entry has a duck target in range (R158). -/
theorem decodeCue_duck (raw : Nat → Byte) (e : CueEntry) : (decodeCue raw e).duck ≤ 16384 := Nat.min_le_right _ _

theorem takeWindow_quiet (s : State) (bs : List WByte) (w : Fin 16) : Quiet s (s.takeWindow bs w) :=
  (((setWindow_quiet s _ _ (by exact decodeWindow_sound _ _)).trans (listDirty_quiet _ _ _)).trans
    (actEnable_quiet _ _ _ _ _ (fun s => enableWindow_quiet s w) (fun s => disableWindow_quiet s w))).trans
    (listDirty_quiet _ _ _)

theorem takeService_quiet (s : State) (bs : List WByte) (v : Fin 8) : Quiet s (s.takeService bs v) :=
  (((setService_quiet s _ _).trans (listDirty_quiet _ _ _)).trans
    (actEnable_quiet _ _ _ _ _ (fun s => enableService_quiet s v) (fun s => disableService_quiet s v))).trans
    (listDirty_quiet _ _ _)

theorem takeSegment_calm (s : State) (bs : List WByte) (g : Fin 12) : Calm s (s.takeSegment bs g) :=
  (((setSegment_quiet s _ _ (by exact fun h => h)).trans (listDirty_quiet _ _ _)).calm.trans
    (actEnable_calm _ _ _ _ _ (fun s => (enableSegment_quiet s g).calm) (fun s => disableSegment_calm s g))).trans
    (listDirty_quiet _ _ _).calm

theorem takeZone_quiet (s : State) (bs : List WByte) (z : Fin 8) : Quiet s (s.takeZone bs z) :=
  ((setZone_quiet s _ _ (by exact fun _ h => h)).trans (listDirty_quiet _ _ _)).trans (afterTiming_quiet s _)

theorem actRequest_quiet (s : State) (b : Byte) (c : Fin 32) : Quiet s (s.actRequest b c) :=
  Quiet.ite (startCue_quiet s c true) (Quiet.ite (stopCue_quiet s c) (Quiet.refl s))

theorem takeCue_quiet (s : State) (bs : List WByte) (c : Fin 32) : Quiet s (s.takeCue bs c) := by
  unfold State.takeCue
  dsimp only
  refine Quiet.trans ?_ (listDirty_quiet _ _ _)
  split
  · exact (setCue_quiet s _ _ (by exact fun _ => decodeCue_duck _ _)).trans (listDirty_quiet _ _ _)
  · exact ((setCue_quiet s _ _ (by exact fun _ => decodeCue_duck _ _)).trans (listDirty_quiet _ _ _)).trans (actRequest_quiet _ _ _)

theorem takeRecord_calm (bs : List WByte) (s : State) (id : RecordId) : Calm s (State.takeRecord bs s id) := by
  cases id
  case window w => exact (takeWindow_quiet s bs w).calm
  case service v => exact (takeService_quiet s bs v).calm
  case segment g => exact takeSegment_calm s bs g
  case zone z => exact (takeZone_quiet s bs z).calm
  case cue c => exact (takeCue_quiet s bs c).calm
  all_goals exact Calm.refl s

/-! ## Control Region Monitor: the request block and whole accesses -/

theorem request_calm (s : State) (r : RequestBlock) : Calm s { s with request := r } := by
  constructor <;> first | rfl | exact fun h => h | exact fun _ => Nat.le_refl _

theorem setConsumer_calm (s : State) (c : BitVec 7) : Calm s (s.setConsumer c) := by
  refine Calm.trans (t := { s with consumer := c }) ?_ (listIf_quiet _ _ _).calm
  constructor <;> first | rfl | exact fun h => h | exact fun _ => Nat.le_refl _

theorem takeConsumer_calm (s : State) (bs : List WByte) : Calm s (s.takeConsumer bs) := by
  unfold State.takeConsumer
  split
  · exact Calm.refl s
  · exact setConsumer_calm _ _

theorem takeLatch_calm (s : State) (bs : List WByte) (m : Fin 16) : Calm s (s.takeLatch bs m) := by
  unfold State.takeLatch
  split
  · exact Calm.refl s
  · exact Calm.ite (clearLatch_calm _ _) (setLatch_calm _ _)

theorem takeClear_quiet (s : State) (bs : List WByte) (off : Nat) (c : Bool) : Quiet s (s.takeClear bs off c) :=
  Quiet.ite (clearFault_quiet s c) (Quiet.refl s)

theorem takeRequest_calm (s : State) (bs : List WByte) (m : Fin 16) : Calm s (s.takeRequest bs m) :=
  ((((request_calm s (s.request.take bs)).trans (takeConsumer_calm _ _)).trans (takeLatch_calm _ _ _)).trans
    (takeClear_quiet _ _ _ _).calm).trans (takeClear_quiet _ _ _ _).calm

theorem takeBytes_calm (s : State) (m : Fin 16) (ids : List RecordId) (bs : List WByte) : Calm s (s.takeBytes m ids bs) :=
  (Calm.foldl (takeRecord_calm bs) _ s).trans (takeRequest_calm _ _ _)

theorem issueMasked_quiet (s : State) (m : Fin 16) (a : Access) (be : List Enables) (ids : List RecordId) :
    Quiet s (s.issueMasked m a be ids) := issue_quiet _ _ _

theorem treatControlRead_quiet (s : State) (m : Fin 16) (a : Access) : Quiet s (s.treatControlRead m a) := by
  unfold State.treatControlRead
  split
  · exact passUnchanged_quiet _ _ _
  · exact setStage_quiet _ _ _

theorem reclassify_quiet (s : State) (m : Fin 16) : Quiet s (s.reclassify m) := by
  unfold State.reclassify
  split
  · exact Quiet.refl s
  · split
    · split
      · exact (raiseFault_quiet _ _ _ _ _).trans (respondDropped_quiet _ _ _)
      · exact Quiet.ite (setStage_quiet _ _ _) (passUnchanged_quiet _ _ _)
    · exact Quiet.refl s

/-- The tables as both resets leave them are sound (R33, R110, R138). -/
theorem windows_reset (w : Fin 16) : ((Vector.replicate 16 windowReset).get w).Sound := by
  have : (Vector.replicate 16 windowReset).get w = windowReset := by simp [Vector.get]
  rw [this]
  exact ⟨by decide, by decide, by decide⟩

theorem segments_reset (g : Fin 12) : ((Vector.replicate 12 segmentReset).get g).Sound := by
  have : (Vector.replicate 12 segmentReset).get g = segmentReset := by simp [Vector.get]
  rw [this]
  exact ⟨by decide, by decide⟩

theorem gains_reset : (∀ c, ((Vector.replicate 32 cueReset).get c).duck ≤ 16384) ∧
    ∀ z, ((Vector.replicate 8 zoneReset).get z).Sound := by
  refine ⟨by decide, ?_⟩
  intro z
  have : (Vector.replicate 8 zoneReset).get z = zoneReset := by simp [Vector.get]
  rw [this]
  exact ⟨by decide, ⟨fun _ h => (by cases h), fun _ h => (by cases h)⟩⟩

/-- A soft reset takes no access out of a queue and adds nothing to what is left to do. -/
theorem softValues_load (s : State) (b : Bool) : (s.softValues.startWriteOut b).load ≤ s.load := by
  have q : (s.softValues.startWriteOut b).queued = s.queued := by
    unfold State.queued
    congr 2
    funext m
    show ((s.ports.map fun p => ({ p with stage := p.stage.afterSoft } : MasterPort)).get m).queue.length = _
    simp [Vector.get]
  have d : ((s.due.filter Due.isTaking).map Due.weight).sum ≤ (s.due.map Due.weight).sum := by
    induction s.due with
    | nil => exact Nat.le_refl _
    | cons x xs ih => cases x <;> simp [List.filter_cons, Due.isTaking, Due.weight] <;> omega
  rw [State.load_eq, State.load_eq, q]
  exact Nat.add_le_add_right (Nat.add_le_add_right d _) _

theorem softValues_calm (s : State) (b : Bool) : Calm s (s.softValues.startWriteOut b) := by
  constructor
  case load => exact softValues_load s b
  all_goals first | rfl | exact fun h => h | skip
  · exact fun _ => List.nodup_nil
  · intro k
    show ((s.ports.map fun p => ({ p with stage := p.stage.afterSoft } : MasterPort)).get k).queue.length ≤ _
    simp [Vector.get]
  · exact fun _ => Nat.zero_le _
  · exact fun _ => Nat.zero_le _
  · exact fun _ => windows_reset
  · exact fun _ => segments_reset
  · exact fun _ => gains_reset

theorem softReset_calm (s : State) : Calm s s.softReset :=
  (softValues_calm s true).trans (Quiet.foldl reclassify_quiet _ _).calm

theorem chargeProtected_calm (s : State) (m : Fin 16) (a : Access) : Calm s (s.chargeProtected m a) := by
  unfold State.chargeProtected
  split
  · exact Calm.refl s
  · next h =>
    refine countProtected_calm s m _ ?_
    unfold State.protectedBytes at h
    cases i : s.incident
    · simp [i] at h
    · rfl

theorem performWrite_calm (s : State) (m : Fin 16) (a : Access) (be : List Enables) (ids : List RecordId)
    (bs : List WByte) : Calm s (s.performWrite m a be ids bs) := (takeBytes_calm s m ids bs).trans (issueMasked_quiet _ _ _ _ _).calm

theorem treatControlWrite_calm (s : State) (m : Fin 16) (a : Access) : Calm s (s.treatControlWrite m a) := by
  have q := (chargeProtected_calm s m a).trans (performWrite_calm _ m a (s.keptEnables m a) (s.recordsWritten m a) (s.keptBytes m a))
  exact Calm.ite (setStage_quiet _ _ _).calm (Calm.ite (q.trans (softReset_calm _)) q)

/-! ## Hand-over -/

theorem treatWindow_quiet (s : State) (m : Fin 16) (a : Access) (h : WinHit) : Quiet s (s.treatWindow m a h) := by
  unfold State.treatWindow
  split
  · exact treatUplinkWrite_quiet _ _ _ _
  · exact treatUplinkRead_quiet _ _ _ _
  · exact treatDownlinkWrite_quiet _ _ _ _
  · exact treatDownlinkRead_quiet _ _ _ _
  · exact treatProgramWrite_quiet _ _ _ _
  · exact treatProgramRead_quiet _ _ _ _

theorem treat_calm (s : State) (m : Fin 16) : Calm s (s.treat m) := by
  unfold State.treat
  split
  · exact (treatWindow_quiet _ _ _ _).calm
  · exact (passUnchanged_quiet _ _ _).calm
  · split
    · exact (treatControlRead_quiet _ _ _).calm
    · exact treatControlWrite_calm _ _ _
  · exact Calm.refl s

end Sys2Proof.Machine
end

