-- ==== Sys2Proof/Laws/Keeps.lean ====
section
/-! SUPPORT. What every operation of the part keeps: the promises of Safety.lean. One lemma for each shared operation that
is not `Quiet` or `Calm` because it moves what those leave alone. -/

namespace Sys2Proof.Machine

/-- The queue of commands stands as it did, and each promise of Safety.lean that held before holds after. -/
structure Keeps (s t : State) : Prop where
  pending : t.pending = s.pending
  list : s.ListSound → t.ListSound
  bar : s.BarSound → t.BarSound
  bound : s.BoundSound → t.BoundSound
  windows : s.WindowSound → t.WindowSound
  segments : s.SegmentSound → t.SegmentSound
  gains : s.GainSound → t.GainSound

theorem Keeps.refl (s : State) : Keeps s s := ⟨rfl, id, id, id, id, id, id⟩

theorem Keeps.trans {s t u : State} (h : Keeps s t) (k : Keeps t u) : Keeps s u :=
  ⟨k.pending.trans h.pending, k.list ∘ h.list, k.bar ∘ h.bar, k.bound ∘ h.bound, k.windows ∘ h.windows,
    k.segments ∘ h.segments, k.gains ∘ h.gains⟩

theorem Keeps.ite {s t u : State} {p : Prop} [Decidable p] (h : Keeps s t) (k : Keeps s u) :
    Keeps s (if p then t else u) := by
  split
  · exact h
  · exact k

theorem Keeps.foldl {α : Type} {f : State → α → State} (h : ∀ s x, Keeps s (f s x)) (l : List α) :
    ∀ s, Keeps s (l.foldl f s) := by
  induction l with
  | nil => exact Keeps.refl
  | cons x xs ih => exact fun s => (h s x).trans (ih (f s x))

theorem Calm.keeps {s t : State} (h : Calm s t) : Keeps s t where
  pending := h.pending
  list := h.listed
  bar := h.barring
  bound := fun b => ⟨fun m => (h.queues m).trans (b.1 m), h.translations b.2.1, h.cache b.2.2⟩
  windows := h.windows
  segments := h.segments
  gains := h.gains

theorem Quiet.keeps {s t : State} (h : Quiet s t) : Keeps s t := h.calm.keeps

/-- A change of what no promise speaks of keeps them all. -/
theorem keeps_of_same {s t : State} (p : t.pending = s.pending) (l : t.writeBackList = s.writeBackList)
    (a : t.latch = s.latch) (q : t.qualified = s.qualified) (b : t.barred = s.barred) (o : t.ports = s.ports)
    (r : t.translations = s.translations) (c : t.cache = s.cache) (w : t.windows = s.windows)
    (g : t.segments = s.segments) (z : t.zones = s.zones) (u : t.cues = s.cues) : Keeps s t where
  pending := p
  list := by unfold State.ListSound; rw [l]; exact id
  bar := by unfold State.BarSound State.incident; rw [a, q, b]; exact id
  bound := by unfold State.BoundSound; rw [o, r, c]; exact id
  windows := by unfold State.WindowSound; rw [w]; exact id
  segments := by unfold State.SegmentSound; rw [g]; exact id
  gains := by unfold State.GainSound; rw [z, u]; exact id

theorem due_keeps (s : State) (l : List Due) : Keeps s { s with due := l } := by
  apply keeps_of_same <;> rfl

theorem popDue_keeps (s : State) : Keeps s s.popDue := due_keeps s _

theorem owe_keeps (s : State) (l : List Due) : Keeps s (s.owe l) := due_keeps s _

/-! ## Following every change -/

/-- An access joins a queue that has a place. -/
theorem enqueue_keeps (s : State) (a : Access) (h : (s.ports.get a.master).queue.length < 4) : Keeps s (s.enqueue a) := by
  refine ⟨rfl, id, id, fun b => ⟨fun m => ?_, b.2.1, b.2.2⟩, id, id, id⟩
  unfold State.enqueue
  rw [State.owe_ports, State.setPort_ports, setAt_get]
  split
  · simp only [List.length_append, List.length_singleton]; omega
  · exact b.1 m

theorem takeRequests_keeps (l : List Access) : ∀ s : State, Keeps s (takeRequests l s) := by
  induction l with
  | nil => intro s; apply keeps_of_same <;> rfl
  | cons a rest ih =>
    intro s
    unfold takeRequests
    split
    · next h => exact (enqueue_keeps s a (of_decide_eq_true (Bool.and_eq_true_iff.mp h).2)).trans (ih _)
    · apply keeps_of_same <;> rfl

theorem settle_keeps (s : State) : Keeps s s.settle := (endRetirements_quiet s).keeps.trans (takeRequests_keeps _ _)

/-! ## Taking an access -/

theorem handOn_keeps (s : State) (m : Fin 16) (c : Cls) : Keeps s (s.handOn m c) :=
  (setStage_quiet s m (.taken c)).keeps.trans (due_keeps _ _)

theorem dropOffline_quiet (s : State) (m : Fin 16) (g : Fin 12) (a : Access) : Quiet s (s.dropOffline m g a) :=
  ((setSegment_quiet s _ _ (by exact fun h => h)).trans (listIf_quiet _ _ _)).trans (respondDropped_quiet _ _ _)

theorem checkPartial_keeps (s : State) (m : Fin 16) (a : Access) (h : WinHit) : Keeps s (s.checkPartial m a h) := by
  have q := raiseFault_quiet s .partialWord m.val a.addr (some h.window)
  unfold State.checkPartial
  dsimp only
  split
  · split
    · exact q.keeps.trans (handOn_keeps _ _ _)
    · split
      · exact handOn_keeps _ _ _
      · exact (q.trans (respondDropped_quiet _ _ _)).keeps
  · exact handOn_keeps _ _ _

theorem check_keeps (s : State) (m : Fin 16) (a : Access) : Keeps s (s.check m a) := by
  unfold State.check
  split
  · exact ((raiseFault_quiet _ _ _ _ _).trans (respondDropped_quiet _ _ _)).keeps
  · split
    · exact Keeps.ite (setStage_quiet _ _ _).keeps (handOn_keeps _ _ _)
    · exact handOn_keeps _ _ _
    · split
      · exact (dropOffline_quiet _ _ _ _).keeps
      · exact checkPartial_keeps _ _ _ _

theorem notices_quiet (s : State) (m : Fin 16) (a : Access) : Quiet s (s.notices m a) := by
  unfold State.notices
  split
  · exact noticeAccess_quiet _ _
  · exact (noticeAccess_quiet _ _).trans (snoop_quiet _ _ _ _)

theorem takeAccess_keeps (s : State) (m : Fin 16) : Keeps s (s.takeAccess m) := by
  unfold State.takeAccess
  split
  · exact (notices_quiet _ _ _).keeps.trans (check_keeps _ _ _)
  · exact Keeps.refl s

/-! ## Incident Control -/

theorem changeLine_keeps (s : State) (b : Bool) : Keeps s (s.changeLine b) := by
  unfold State.changeLine
  split <;> (apply keeps_of_same <;> rfl)

theorem qualify_keeps (s : State) : Keeps s s.qualify := by
  have e : Calm { s with qualified := s.line, qualTimer := none, latch := s.latch || s.line } s.qualify := by
    unfold State.qualify State.rederive
    exact (Calm.ite (enterIncident_calm _ _) (Calm.ite (exitIncident_calm _ _) (Calm.refl _))).trans (list_quiet _ _).calm
  exact ⟨e.pending, e.listed, fun x =>
      (rederive_calm s { s with qualified := s.line, qualTimer := none, latch := s.latch || s.line } .line x rfl).2,
    e.keeps.bound, e.windows, e.segments, e.gains⟩

/-! ## Write-backs, the write-out and event writes -/

theorem startWriteBack_keeps (s : State) : Keeps s s.startWriteBack := by
  unfold State.startWriteBack
  split
  · next r rest _ _ h =>
    split
    · exact Keeps.refl s
    · refine ⟨rfl, fun n => ?_, id, id, id, id, id⟩
      unfold State.ListSound at n
      rw [h, List.map_cons] at n
      exact (List.nodup_cons.mp n).2
  · exact Keeps.refl s

theorem releaseRecord_quiet (id : RecordId) (s : State) (m : Fin 16) : Quiet s (State.releaseRecord id s m) := by
  unfold State.releaseRecord
  split
  · exact Quiet.ite (Quiet.ite (passUnchanged_quiet _ _ _) (setStage_quiet _ _ _)) (Quiet.refl s)
  · exact Quiet.refl s

theorem goOn_keeps (s : State) (m : Fin 16) : Keeps s (s.goOn m) := (setStage_quiet s m _).keeps.trans (owe_keeps _ _)

theorem releaseWrite_keeps (s : State) (m : Fin 16) : Keeps s (s.releaseWrite m) := by
  unfold State.releaseWrite
  split
  · exact goOn_keeps _ _
  · exact Keeps.refl s

theorem writeBack_keeps (s : State) (b : Option WriteBack) : Keeps s { s with writeBack := b } := by
  apply keeps_of_same <;> rfl

theorem endWriteBack_keeps (s : State) (b : WriteBack) : Keeps s (s.endWriteBack b) :=
  ((writeBack_keeps s none).trans (Quiet.foldl (releaseRecord_quiet b.id) _ _).keeps).trans
    (Keeps.foldl releaseWrite_keeps _ _)

theorem answerWriteBack_keeps (s : State) (b : WriteBack) (k : Nat) (ok : Bool) : Keeps s (s.answerWriteBack b k ok) := by
  have q : Quiet s (if !ok && !b.failed && !b.dropped then
      s.raiseFault .writebackError Config.ownNumber (b.burstAddr k) none else s) :=
    Quiet.ite (raiseFault_quiet _ _ _ _ _) (Quiet.refl s)
  exact Keeps.ite (q.keeps.trans (endWriteBack_keeps _ _)) (q.keeps.trans (writeBack_keeps _ _))

theorem releaseWriteOut_keeps (s : State) (m : Fin 16) : Keeps s (s.releaseWriteOut m) := by
  unfold State.releaseWriteOut
  split
  · exact goOn_keeps _ _
  · exact Keeps.refl s

theorem writeOut_keeps (s : State) (b : Bool) (o : Option WriteOut) : Keeps s { s with ready := b, writeOut := o } := by
  apply keeps_of_same <;> rfl

theorem endWriteOut_keeps (s : State) (b : Bool) : Keeps s (s.endWriteOut b) :=
  (((writeOut_keeps s true none).trans (list_quiet _ _).keeps).trans (raiseEvent_quiet _ _ _ _ _).keeps).trans
    (Keeps.foldl releaseWriteOut_keeps _ _)

theorem answerWriteOut_keeps (s : State) (o : WriteOut) (k : Nat) (ok : Bool) : Keeps s (s.answerWriteOut o k ok) := by
  have q : Quiet s (if !ok && !o.failed then
      s.raiseFault .writebackError Config.ownNumber (s.imageAddr k) none else s) :=
    Quiet.ite (raiseFault_quiet _ _ _ _ _) (Quiet.refl s)
  exact Keeps.ite (q.keeps.trans (endWriteOut_keeps _ _)) (q.keeps.trans (writeOut_keeps _ _ _))

theorem issueEvent_keeps (s : State) : Keeps s s.issueEvent := by
  unfold State.issueEvent
  split
  · apply keeps_of_same <;> rfl
  · exact Keeps.refl s

theorem ring_keeps (s : State) (l : List Event) (b : Bool) (p : BitVec 7) :
    Keeps s { s with events := l, eventInFlight := b, producer := p } := by
  apply keeps_of_same <;> rfl

theorem answerEvent_keeps (s : State) (ok : Bool) : Keeps s (s.answerEvent ok) :=
  Keeps.ite (Keeps.ite ((ring_keeps s _ _ _).trans (list_quiet _ _).keeps)
    ((ring_keeps s _ _ s.producer).trans (loseEvent_quiet _).keeps)) (Keeps.refl s)

/-! ## The two ends of a hard reset -/

theorem release_keeps (s : State) (b : BitVec 8) (m : BitVec 4) (d : BitVec 6) : Keeps s (s.release b m d) := by
  unfold State.release
  refine Keeps.ite ?_ (Keeps.refl s)
  apply keeps_of_same <;> rfl

theorem hardReset_keeps (s : State) : Keeps s s.hardReset := by
  refine ⟨rfl, fun _ => List.nodup_nil, fun _ _ => rfl, fun _ => ⟨fun m => ?_, Nat.zero_le _, Nat.zero_le _⟩,
    fun _ => windows_reset, fun _ => segments_reset, fun _ => gains_reset⟩
  show ((Vector.replicate 16 ({ queue := [], stage := .waiting } : MasterPort)).get m).queue.length ≤ 4
  simp [Vector.get]

/-! ## Answers -/

theorem staleBursts_keeps (s : State) (l : List StaleBurst) : Keeps s { s with staleBursts := l } := by
  apply keeps_of_same <;> rfl

theorem answerBurst_keeps (s : State) (n k : Fin 16) (ok : Bool) : Keeps s (s.answerBurst n k ok) := by
  unfold State.answerBurst
  split
  · exact staleBursts_keeps _ _
  · split
    · exact Keeps.refl s
    · exact Keeps.ite (answerFlush_quiet _ _ _ _ _).keeps (Keeps.refl s)

theorem giveRequest_quiet (p : Addr) (s : State) (r : TransReq) : Quiet s (State.giveRequest p s r) := by
  unfold State.giveRequest
  split
  · exact giveMaster_quiet _ _ _
  · exact issueBursts_quiet _ _ _

theorem refuseRequest_quiet (s : State) (r : TransReq) : Quiet s (s.refuseRequest r) := by
  unfold State.refuseRequest
  split
  · exact refuseMaster_quiet _ _
  · exact flushRefused_quiet _ _

theorem completeFetch_quiet (s : State) (f : MapFetch) (ok : Bool) (e : Word) : Quiet s (s.completeFetch f ok e) := by
  have fails (k : FaultKind) : Quiet s (s.failFetch f.request k) :=
    ((endFetch_quiet _ _).trans (raiseFault_quiet _ _ _ _ _)).trans (Quiet.foldl refuseRequest_quiet _ _)
  have fills : Quiet s (s.fillFetch f.request e) :=
    ((endFetch_quiet _ _).trans (createCacheEntry_quiet _ _ _)).trans (Quiet.foldl (giveRequest_quiet _) _ _)
  exact Quiet.ite (fetch_quiet _ _) (Quiet.ite (fails _) (Quiet.ite fills (fails _)))

theorem present_keeps (s : State) (a : Access) : Keeps s (s.present a) := by
  apply keeps_of_same <;> rfl

/-! ## What the part does of itself -/

theorem giveNotices_keeps (s : State) : Keeps s s.giveNotices := by
  unfold State.giveNotices
  split
  · exact Keeps.refl s
  · exact (takeDepartures_calm _ s).keeps.trans (settle_keeps _)

theorem actDue_keeps (s : State) (d : Due) : Keeps s (s.actDue d) := by
  cases d
  · exact takeAccess_keeps _ _
  · exact (treat_calm _ _).keeps

theorem doDue_keeps (s : State) (d : Due) : Keeps s (s.doDue d) :=
  (((popDue_keeps s).trans (actDue_keeps _ d)).trans (settle_keeps _)).trans (giveNotices_keeps _)

theorem workOff_keeps (own : State → Due → Option State) (h : ∀ s d t, own s d = some t → Keeps s t) :
    ∀ (fuel : Nat) (s : State), Keeps s (State.workOff own fuel s)
  | 0, s => Keeps.refl s
  | fuel + 1, s => by
    unfold State.workOff
    split
    · exact Keeps.refl s
    · split
      · next e => exact h _ _ _ e
      · exact (doDue_keeps s _).trans (workOff_keeps own h fuel _)

theorem catchUpTo_keeps (own : State → Due → Option State) (h : ∀ s d t, own s d = some t → Keeps s t) (s : State) :
    Keeps s (s.catchUpTo own) := (giveNotices_keeps s).trans (workOff_keeps own h _ _)

theorem catchUp_keeps (s : State) : Keeps s s.catchUp := catchUpTo_keeps _ (fun _ _ _ h => by cases h) s

theorem ownTaking_keeps (m : Fin 16) (s : State) (d : Due) (t : State) (h : State.ownTaking m s d = some t) :
    Keeps s t := by
  unfold State.ownTaking at h
  split at h
  · obtain rfl := Option.some.inj h
    exact (popDue_keeps s).trans (takeAccess_keeps _ _)
  · cases h

theorem ownHanding_keeps (m : Fin 16) (f : State → Access → Cls → Option State)
    (k : ∀ s a c t, f s a c = some t → Keeps s t) (s : State) (d : Due) (t : State)
    (h : State.ownHanding m f s d = some t) : Keeps s t := by
  unfold State.ownHanding at h
  split at h
  · split at h
    · exact (popDue_keeps s).trans (k _ _ _ _ h)
    · cases h
  · cases h

/-! ## Access commands -/

theorem asWindow_keeps (s : State) (m : Fin 16) (r : Role) (d : Dir) (f : State → Access → WinHit → State)
    (h : ∀ s a hit, Keeps s (f s a hit)) : Keeps s (s.asWindow m r d f) := by
  refine catchUpTo_keeps _ (ownHanding_keeps m _ fun s a c t e => ?_) s
  cases c <;> simp only at e
  case window hit => split at e <;> cases e; exact h _ _ _
  all_goals cases e

theorem asControl_keeps (s : State) (m : Fin 16) (d : Dir) (p : State → Access → Bool) (f : State → Access → State)
    (h : ∀ s a, Keeps s (f s a)) : Keeps s (s.asControl m d p f) := by
  refine catchUpTo_keeps _ (ownHanding_keeps m _ fun s a c t e => ?_) s
  cases c <;> simp only at e
  case control => split at e <;> cases e; exact h _ _
  all_goals cases e

theorem asUnwindowed_keeps (s : State) (m : Fin 16) (f : State → Access → State) (h : ∀ s a, Keeps s (f s a)) :
    Keeps s (s.asUnwindowed m f) := by
  refine catchUpTo_keeps _ (ownHanding_keeps m _ fun s a c t e => ?_) s
  cases c <;> simp only at e
  case unwindowed => cases e; exact h _ _
  all_goals cases e

end Sys2Proof.Machine
end

