-- ==== Sys2Proof/Laws/CatchUp.lean ====
section
/-! SUPPORT. What the part does of itself before a command acts: each item done leaves less to do, so that all of it is
done; and what a command meets at rest, or at the item that it is about. -/

namespace Sys2Proof.Machine

/-! ## Each item leaves less to do -/

theorem enqueue_load (s : State) (a : Access) : (s.enqueue a).load ≤ s.load + 4 := by
  have q := s.setPort_queued a.master
    { queue := (s.ports.get a.master).queue ++ [a], stage := (s.ports.get a.master).stage }
  have d : ((if (s.ports.get a.master).queue.isEmpty then [Due.take a.master] else []).map Due.weight).sum ≤ 2 := by
    split <;> simp [Due.weight]
  rw [State.load_eq, State.load_eq]
  show ((s.due ++ _).map Due.weight).sum + 2 * (s.setPort a.master
    { queue := (s.ports.get a.master).queue ++ [a], stage := (s.ports.get a.master).stage }).queued + _ ≤ _
  rw [List.map_append, List.sum_append]
  have e : (s.enqueue a).portWaiting = s.portWaiting := rfl
  rw [e]
  simp only [List.length_append, List.length_singleton] at q
  omega

/-- What is left to do counts the requests that wait at the port. -/
theorem portWaiting_load (s : State) (l : List Access) :
    ({ s with portWaiting := l } : State).load + 4 * s.portWaiting.length = s.load + 4 * l.length := by
  rw [State.load_eq, State.load_eq]
  have : ({ s with portWaiting := l } : State).queued = s.queued := rfl
  rw [this]
  simp only
  omega

theorem takeRequests_load (l : List Access) :
    ∀ s : State, (takeRequests l s).load + 4 * s.portWaiting.length ≤ s.load + 4 * l.length := by
  induction l with
  | nil => exact fun s => (portWaiting_load s []).le
  | cons a rest ih =>
    intro s
    unfold takeRequests
    split
    · have i := ih (s.enqueue a)
      have q := enqueue_load s a
      rw [State.enqueue_portWaiting] at i
      simp only [List.length_cons]
      omega
    · exact (portWaiting_load s _).le

/-- Settling adds nothing to what is left to do. -/
theorem settle_load (s : State) : s.settle.load ≤ s.load := by
  have q := endRetirements_quiet s
  have t := takeRequests_load s.endRetirements.portWaiting s.endRetirements
  have := q.load
  unfold State.settle
  omega

@[simp] theorem settle_departures (s : State) : s.settle.departures = s.departures := by
  have t : ∀ (l : List Access) (u : State), (takeRequests l u).departures = u.departures := by
    intro l
    induction l with
    | nil => exact fun _ => rfl
    | cons a rest ih =>
      intro u
      unfold takeRequests
      split
      · exact ih _
      · rfl
  exact (t _ _).trans (endRetirements_quiet s).departures

theorem giveNotices_load (s : State) : s.giveNotices.load ≤ s.load := by
  unfold State.giveNotices
  split
  · exact Nat.le_refl _
  · exact (settle_load _).trans (takeDepartures_calm _ s).load

/-- The Combiner has taken every notice (R104). -/
@[simp] theorem giveNotices_departures (s : State) : s.giveNotices.departures = [] := by
  unfold State.giveNotices
  split
  · next h => exact h
  · exact (settle_departures _).trans (takeDepartures_departures _ s rfl)

theorem giveNotices_rest (s : State) (h : s.departures = []) : s.giveNotices = s := by
  unfold State.giveNotices
  rw [h]

theorem handOn_load (s : State) (m : Fin 16) (c : Cls) : (s.handOn m c).load = s.load + 1 := by
  have q := s.setStage_load m (.taken c)
  rw [State.load_eq, State.load_eq] at *
  show ((Due.hand m :: s.due).map Due.weight).sum + 2 * (s.setStage m (.taken c)).queued + _ = _
  have e : (s.handOn m c).portWaiting = s.portWaiting := rfl
  rw [e, List.map_cons, List.sum_cons]
  simp only [State.setStage_due, State.setStage_portWaiting] at q
  simp only [Due.weight]
  omega

theorem checkPartial_load (s : State) (m : Fin 16) (a : Access) (h : WinHit) :
    (s.checkPartial m a h).load ≤ s.load + 1 := by
  have q := raiseFault_quiet s .partialWord m.val a.addr (some h.window)
  have l := q.load
  unfold State.checkPartial
  dsimp only
  split
  · split
    · rw [handOn_load]; omega
    · split
      · rw [handOn_load]
      · have := (q.trans (respondDropped_quiet _ m a)).load; omega
  · rw [handOn_load]

theorem check_load (s : State) (m : Fin 16) (a : Access) : (s.check m a).load ≤ s.load + 1 := by
  unfold State.check
  split
  · exact Nat.le_succ_of_le ((raiseFault_quiet _ _ _ _ _).trans (respondDropped_quiet _ _ _)).load
  · split
    · split
      · rw [State.setStage_load]; omega
      · rw [handOn_load]
    · rw [handOn_load]
    · split
      · exact Nat.le_succ_of_le (dropOffline_quiet _ _ _ _).load
      · exact checkPartial_load _ _ _ _

theorem takeAccess_load (s : State) (m : Fin 16) : (s.takeAccess m).load ≤ s.load + 1 := by
  unfold State.takeAccess
  split
  · next a _ _ _ =>
    have := check_load (s.notices m a) m a
    have := (notices_quiet s m a).load
    omega
  · omega

/-- An item that is done leaves less to do. -/
theorem doDue_load (s : State) (d : Due) (h : s.due.head? = some d) : (s.doDue d).load < s.load := by
  have p : s.popDue.load + d.weight = s.load := by
    obtain ⟨l, e⟩ : ∃ l, s.due = d :: l := by
      cases k : s.due with
      | nil => rw [k] at h; cases h
      | cons x xs => rw [k] at h; cases h; exact ⟨xs, rfl⟩
    rw [State.load_eq, State.load_eq, State.popDue_due, e]
    simp only [List.tail_cons, List.map_cons, List.sum_cons]
    have : s.popDue.queued = s.queued := rfl
    have : s.popDue.portWaiting = s.portWaiting := rfl
    simp only [*]
    omega
  have a : (s.popDue.actDue d).load < s.load := by
    cases d with
    | take m =>
      have := takeAccess_load s.popDue m
      simp only [Due.weight] at p
      show (s.popDue.takeAccess m).load < _
      omega
    | hand m =>
      have := (treat_calm s.popDue m).load
      simp only [Due.weight] at p
      show (s.popDue.treat m).load < _
      omega
  exact lt_of_le_of_lt ((giveNotices_load _).trans (settle_load _)) a

/-! ## All of it is done -/

/-- Nothing is due where nothing is left to do. -/
theorem due_of_load (s : State) (h : s.load = 0) : s.due = [] := by
  rw [State.load_eq] at h
  cases e : s.due with
  | nil => rfl
  | cons d l =>
    rw [e] at h
    cases d <;> simp [Due.weight] at h

theorem due_of_next {s : State} {d : Due} (h : s.NextDue d) : ∃ l, s.due = d :: l := by
  have n := h.2
  cases k : s.due with
  | nil => rw [k] at n; cases n
  | cons x xs => rw [k] at n; cases n; exact ⟨xs, rfl⟩

/-- The fuel is enough: more of it changes nothing. -/
theorem workOff_fuel (own : State → Due → Option State) (n : Nat) :
    ∀ (k : Nat) (s : State), s.load ≤ n → n ≤ k → State.workOff own k s = State.workOff own n s := by
  induction n with
  | zero =>
    intro k s h _
    have e := due_of_load s (Nat.le_zero.mp h)
    cases k with
    | zero => rfl
    | succ k => unfold State.workOff; rw [e]
  | succ n ih =>
    intro k s h g
    obtain ⟨k, rfl⟩ := Nat.exists_eq_succ_of_ne_zero (n := k) (by omega)
    unfold State.workOff
    cases e : s.due with
    | nil => rfl
    | cons d l =>
      simp only
      split
      · rfl
      · have := doDue_load s d (by rw [e]; rfl)
        exact ih k _ (by omega) (by omega)

/-- With nothing due and no notice given, a command meets the state as it stands. -/
theorem catchUpTo_rest (own : State → Due → Option State) (s : State) (h : s.AtRest) : s.catchUpTo own = s := by
  unfold State.catchUpTo
  rw [giveNotices_rest s h.2]
  unfold State.workOff
  split
  · rfl
  · rw [h.1]

theorem catchUp_rest (s : State) (h : s.AtRest) : s.catchUp = s := catchUpTo_rest _ s h

/-- A command acts on the item that it is about when that is what the part does next. -/
theorem catchUpTo_own (own : State → Due → Option State) (s t : State) (d : Due) (h : s.NextDue d)
    (k : own s d = some t) : s.catchUpTo own = t := by
  obtain ⟨l, e⟩ := due_of_next h
  have n : s.load ≠ 0 := fun z => by rw [due_of_load s z] at e; cases e
  obtain ⟨n, hn⟩ := Nat.exists_eq_succ_of_ne_zero n
  unfold State.catchUpTo
  rw [giveNotices_rest s h.1, hn]
  unfold State.workOff
  rw [e]
  simp only [k]

/-- What is due before the command's own item is done first. -/
theorem catchUpTo_before (own : State → Due → Option State) (s : State) (d : Due) (h : s.NextDue d)
    (k : own s d = none) : s.catchUpTo own = (s.doDue d).catchUpTo own := by
  obtain ⟨l, e⟩ := due_of_next h
  have lt := doDue_load s d h.2
  obtain ⟨n, hn⟩ := Nat.exists_eq_succ_of_ne_zero (Nat.ne_of_gt (Nat.lt_of_le_of_lt (Nat.zero_le _) lt))
  have z : (s.doDue d).departures = [] := giveNotices_departures _
  unfold State.catchUpTo
  rw [giveNotices_rest s h.1, giveNotices_rest _ z, hn]
  conv_lhs => unfold State.workOff
  rw [e]
  simp only [k]
  exact workOff_fuel own _ _ _ (Nat.le_refl _) (by omega)

/-- Departure notices are taken before anything else. -/
theorem catchUpTo_notices (own : State → Due → Option State) (s : State) :
    s.catchUpTo own = s.giveNotices.catchUpTo own := by
  unfold State.catchUpTo
  rw [giveNotices_rest s.giveNotices (giveNotices_departures s)]

/-- What a part at rest, or one about to do an item, can come to: the work-off ends at rest or at the command's own item. -/
theorem catchUpTo_ends (own : State → Due → Option State) (s : State) :
    (s.catchUpTo own).AtRest ∨ ∃ u d t, u.NextDue d ∧ own u d = some t ∧ s.catchUpTo own = t := by
  suffices h : ∀ (n : Nat) (s : State), s.load ≤ n → s.departures = [] →
      (s.catchUpTo own).AtRest ∨ ∃ u d t, u.NextDue d ∧ own u d = some t ∧ s.catchUpTo own = t by
    rw [catchUpTo_notices]
    exact h _ _ (Nat.le_refl _) (giveNotices_departures s)
  intro n
  induction n with
  | zero =>
    intro s l z
    have r : s.AtRest := ⟨due_of_load s (Nat.le_zero.mp l), z⟩
    exact .inl (by rw [catchUpTo_rest own s r]; exact r)
  | succ n ih =>
    intro s l z
    cases e : s.due with
    | nil => exact .inl (by rw [catchUpTo_rest own s ⟨e, z⟩]; exact ⟨e, z⟩)
    | cons d l' =>
      have nd : s.NextDue d := ⟨z, by rw [e]; rfl⟩
      cases k : own s d with
      | some t => exact .inr ⟨s, d, t, nd, k, catchUpTo_own own s t d nd k⟩
      | none =>
        have := doDue_load s d nd.2
        rw [catchUpTo_before own s d nd k]
        exact ih _ (by omega) (giveNotices_departures _)

end Sys2Proof.Machine
end

