-- ==== Sys2Proof/Laws/Flush.lean ====
section
/-! SUPPORT. What the end of a flush comes to (R73, R55): what its operations do to the pending allocations and the slots, and
one equation for State.flushEnds without its bound. -/

namespace Sys2Proof.Machine

/-! ## The pending allocations -/

@[simp] theorem State.raiseEvent_allocs (s : State) (k : EventKind) (o : Nat) (t : Byte) (r : Nat) :
    (s.raiseEvent k o t r).allocs = s.allocs := by
  unfold State.raiseEvent State.loseEvent
  split
  · split <;> simp
  · rfl

@[simp] theorem State.raiseFault_allocs (s : State) (k : FaultKind) (n : Nat) (a : Addr) (w : Option (Fin 16)) :
    (s.raiseFault k n a w).allocs = s.allocs := by
  have f : ∀ (u : State) (c : Bool) (r : FaultRecord), (u.setFaultRecord c r).allocs = u.allocs := fun u c r => by
    unfold State.setFaultRecord
    split <;> simp
  unfold State.raiseFault State.countLostFault
  simp only [State.raiseEvent_allocs]
  split <;> simp [f]

@[simp] theorem State.respond_allocs (s : State) (m : Fin 16) (ok : Bool) (d : List Word) :
    (s.respond m ok d).allocs = s.allocs := rfl

@[simp] theorem State.countLate_allocs (s : State) (g : Fin 12) : (s.countLate g).allocs = s.allocs := by
  simp [State.countLate]

@[simp] theorem State.countSequence_allocs (s : State) (g : Fin 12) : (s.countSequence g).allocs = s.allocs := by
  simp [State.countSequence]

@[simp] theorem State.countFlushError_allocs (s : State) (v : Fin 8) : (s.countFlushError v).allocs = s.allocs := by
  simp [State.countFlushError]

@[simp] theorem State.countFrame_allocs (s : State) (v : Fin 8) (o : SlotOutcome) : (s.countFrame v o).allocs = s.allocs := by
  simp [State.countFrame]

@[simp] theorem State.translate_allocs (s : State) (o : Owner) (w : Fin 16) (f : Nat) (d : Option Addr) (own : Bool) :
    (s.translate o w f d own).2.allocs = s.allocs := by
  unfold State.translate State.joinQueue State.touchCache
  dsimp only
  repeat' split
  all_goals simp

/-- A left fold keeps what each step keeps. -/
theorem foldl_keeps {α β : Type} (g : State → β) (f : State → α → State) (h : ∀ s a, g (f s a) = g s) (l : List α) :
    ∀ s : State, g (l.foldl f s) = g s := by
  induction l with
  | nil => exact fun _ => rfl
  | cons a l ih => exact fun s => (ih (f s a)).trans (h s a)

@[simp] theorem State.snoop_allocs (s : State) (src : HazardSource) (a : Addr) (n : Nat) :
    (s.snoop src a n).allocs = s.allocs := rfl

@[simp] theorem State.accountSegment_allocs (t : Slot) (s : State) (g : Fin 12) :
    (State.accountSegment t s g).allocs = s.allocs := by
  unfold State.accountSegment
  dsimp only
  repeat' split
  all_goals simp

@[simp] theorem State.accountMisses_allocs (s : State) (t : Slot) (o : SlotOutcome) :
    (s.accountMisses t o).allocs = s.allocs := by
  unfold State.accountMisses
  split
  · rfl
  · exact foldl_keeps State.allocs _ (State.accountSegment_allocs t) _ _

@[simp] theorem State.enterFlushing_allocs (s : State) (n : Fin 16) (o : SlotOutcome) :
    (s.enterFlushing n o).allocs = s.allocs := by
  unfold State.enterFlushing
  dsimp only
  split <;> simp

@[simp] theorem State.beginFlush_allocs (s : State) (n : Fin 16) (o : SlotOutcome) :
    (s.beginFlush n o).2.allocs = s.allocs := by
  simp [State.beginFlush]

@[simp] theorem State.sendThrough_allocs (s : State) (m : Fin 16) (a : Access) (h : WinHit) (t : Treatment) (own : Bool) :
    (s.sendThrough m a h t own).allocs = s.allocs := by
  unfold State.sendThrough
  dsimp only
  split
  · unfold State.deliver State.issueClip State.underrun
    dsimp only
    repeat' split
    all_goals simp
  · simp [State.respondDropped]
  · simp

@[simp] theorem State.freeAfterFlush_allocs (s : State) (n : Fin 16) : (s.freeAfterFlush n).allocs = s.allocs := by
  refine (foldl_keeps State.allocs _ (fun u m => ?_) _ _).trans (by simp)
  unfold State.releaseRead
  repeat' split
  all_goals simp

@[simp] theorem State.dropWaiting_allocs (s : State) (m : Fin 16) : (s.dropWaiting m).allocs = s.allocs := by
  unfold State.dropWaiting
  split <;> simp

@[simp] theorem State.contributeWaiting_allocs (n : Fin 16) (s : State) (m : Fin 16) :
    (State.contributeWaiting n s m).allocs = s.allocs := by
  unfold State.contributeWaiting State.contribute State.updateGate
  dsimp only
  repeat' split
  all_goals simp

@[simp] theorem State.serveAlloc_allocs (s : State) (p : PendingAlloc) : (s.serveAlloc p).allocs = (s.endAlloc p).allocs := by
  unfold State.serveAlloc
  split
  · exact (foldl_keeps State.allocs _ (State.contributeWaiting_allocs _) _ _).trans (by simp [State.allocate])
  · exact foldl_keeps State.allocs _ State.dropWaiting_allocs _ _

/-! ## The end of a flush -/

/-- Ending a pending allocation leaves fewer. -/
theorem endAlloc_length {s : State} {n : Fin 16} {p : PendingAlloc} (h : s.claimOf n = some p) :
    (s.endAlloc p).allocs.length < s.allocs.length := by
  have m : p ∈ s.allocs := List.mem_of_find?_eq_some h
  exact List.length_filter_lt_length_iff_exists.mpr ⟨p, m, by simp⟩

/-- More turns than pending allocations make no difference. -/
theorem endFlush_fuel (n : Fin 16) : ∀ (k l : Nat) (s : State), s.allocs.length < k → s.allocs.length < l →
    State.endFlush k n s = State.endFlush l n s
  | 0, _, _, h, _ => absurd h (Nat.not_lt_zero _)
  | _, 0, _, _, h => absurd h (Nat.not_lt_zero _)
  | k + 1, l + 1, s, hk, hl => by
    unfold State.endFlush
    dsimp only
    split
    · rfl
    · next p hp =>
      have e := endAlloc_length hp
      rw [State.freeAfterFlush_allocs] at e
      split
      · split
        · rfl
        · exact endFlush_fuel n k l _ (by simp; omega) (by simp; omega)
        · rfl
      · rfl

/-! ## The service of a slot that is flushed -/

@[simp] theorem State.raiseEvent_slots (s : State) (k : EventKind) (o : Nat) (t : Byte) (r : Nat) :
    (s.raiseEvent k o t r).slots = s.slots := by
  unfold State.raiseEvent State.loseEvent
  split
  · split <;> simp
  · rfl

@[simp] theorem State.raiseFault_slots (s : State) (k : FaultKind) (n : Nat) (a : Addr) (w : Option (Fin 16)) :
    (s.raiseFault k n a w).slots = s.slots := by
  have f : ∀ (u : State) (c : Bool) (r : FaultRecord), (u.setFaultRecord c r).slots = u.slots := fun u c r => by
    unfold State.setFaultRecord
    split <;> simp
  unfold State.raiseFault State.countLostFault
  simp only [State.raiseEvent_slots]
  split <;> simp [f]

@[simp] theorem State.translate_slots (s : State) (o : Owner) (w : Fin 16) (f : Nat) (d : Option Addr) (own : Bool) :
    (s.translate o w f d own).2.slots = s.slots := by
  unfold State.translate State.joinQueue State.touchCache
  dsimp only
  repeat' split
  all_goals simp

@[simp] theorem State.accountMisses_slots (s : State) (t : Slot) (o : SlotOutcome) :
    (s.accountMisses t o).slots = s.slots := by
  unfold State.accountMisses
  split
  · rfl
  · refine foldl_keeps State.slots _ (fun u g => ?_) _ _
    unfold State.accountSegment
    dsimp only
    repeat' split
    all_goals simp

/-- A flush that begins leaves the slot its service. -/
theorem beginFlush_service (s : State) (n : Fin 16) (o : SlotOutcome) :
    ((s.beginFlush n o).2.slots.get n).service = (s.slots.get n).service := by
  unfold State.beginFlush State.enterFlushing State.countFrame
  dsimp only
  rw [State.translate_slots, State.accountMisses_slots]
  split <;> simp [State.setSlot, setAt_get]

/-- What the end of a flush does (R73): the slot is freed, and a pending allocation that claimed it is served, after which the
slot allocated for it is checked for completion (R55, R68). -/
theorem flushEnds_eq (s : State) (n : Fin 16) :
    s.flushEnds n = match (s.freeAfterFlush n).claimOf n with
      | none => s.freeAfterFlush n
      | some p => ((s.freeAfterFlush n).serveAlloc p).checkComplete n := by
  conv_lhs => unfold State.flushEnds State.endFlush
  dsimp only
  cases hp : (s.freeAfterFlush n).claimOf n with
  | none => rfl
  | some p =>
    have e := endAlloc_length hp
    rw [State.freeAfterFlush_allocs] at e
    dsimp only
    unfold State.checkComplete State.startFlush State.flushRefused State.flushEnds
    dsimp only
    split
    · split
      · rfl
      · rw [beginFlush_service]
        exact endFlush_fuel n _ _ _ (by simp; omega) (by simp)
      · rfl
    · rfl

end Sys2Proof.Machine
end

