-- ==== Sys2Proof/Laws/Turn.lean ====
section
/-! SUPPORT. What a command that hands an access on does when it meets the access that it names: one lemma for each way of
meeting it. -/

namespace Sys2Proof.Machine

theorem endRetirement_rest (s : State) (w : Fin 16) (h : (s.windows.get w).retiring = false) : s.endRetirement w = s := by
  unfold State.endRetirement
  rw [h]
  rfl

/-- Settling where no window is retiring and no request waits at the port changes nothing. -/
theorem settle_rest (s : State) (h : ∀ w, (s.windows.get w).retiring = false) (k : s.portWaiting = []) : s.settle = s := by
  have e : ∀ l : List (Fin 16), l.foldl State.endRetirement s = s := by
    intro l
    induction l with
    | nil => rfl
    | cons w l ih => rw [List.foldl_cons, endRetirement_rest s w (h w), ih]
  have r : s.endRetirements = s := e _
  unfold State.settle
  rw [r, k]
  show ({ s with portWaiting := [] } : State) = s
  rw [← k]

theorem ownHanding_turn {s : State} {m : Fin 16} {a : Access} {c : Cls} (h : s.Turn m a c)
    (f : State → Access → Cls → Option State) : State.ownHanding m f s (.hand m) = f s.popDue a c := by
  unfold State.ownHanding
  rw [h.2.1, h.2.2]
  exact if_pos rfl

theorem asWindow_turn {s : State} {m : Fin 16} {a : Access} {hit : WinHit} (h : s.Turn m a (.window hit))
    (f : State → Access → WinHit → State) : s.asWindow m hit.role a.dir f = f s.popDue a hit :=
  catchUpTo_own _ s _ _ h.1 ((ownHanding_turn h _).trans (if_pos ⟨rfl, rfl⟩))

theorem asUnwindowed_turn {s : State} {m : Fin 16} {a : Access} (h : s.Turn m a .unwindowed)
    (f : State → Access → State) : s.asUnwindowed m f = f s.popDue a :=
  catchUpTo_own _ s _ _ h.1 (ownHanding_turn h _)

theorem asControl_turn {s : State} {m : Fin 16} {a : Access} (h : s.Turn m a .control) (p : State → Access → Bool)
    (f : State → Access → State) (hp : p s.popDue a = true) : s.asControl m a.dir p f = f s.popDue a :=
  catchUpTo_own _ s _ _ h.1 ((ownHanding_turn h _).trans (if_pos ⟨rfl, hp⟩))

/-- A control-region write that no write-back holds leaves `State.written`, and a soft reset follows if it asks for one. -/
theorem treatControlWrite_written {s : State} {m : Fin 16} {a : Access} (h : s.writeHeld m a = false) :
    s.popDue.treatControlWrite m a =
      if asksSoftReset (s.keptBytes m a) then (s.written m a).softReset else s.written m a := by
  have f : s.popDue.writeHeld m a = false := h
  have c : s.popDue.chargeProtected m a = (match s.protectedBytes m a with
      | [] => s.popDue
      | x :: _ => s.popDue.countProtected m (s.regionBase + BitVec.ofNat 32 (x.off - x.off % 4))) := by
    unfold State.chargeProtected State.firstProtected
    rw [show s.popDue.protectedBytes m a = s.protectedBytes m a from rfl]
    cases s.protectedBytes m a <;> rfl
  unfold State.treatControlWrite
  rw [f, c]
  rfl

end Sys2Proof.Machine
end

