-- ==== Sys2Proof/Tests/Slice0.lean ====
section
/-! SUPPORT. Tests: the worked examples of the manual, what WellFormed refuses, and for every statement with hypotheses a
state and operands that meet them (`witness_…`). -/

namespace Sys2Proof.Tests

open Sys2Proof.Machine

-- One test after another: each kernel evaluation elaborated beside the others would hold a thread of its own.
set_option Elab.async false

/-! ## The tunnel that the tests stand on -/

/-- A read of `n` words with every byte enabled. -/
def rd (m : Fin 16) (a : Addr) (n : Nat) : Access :=
  { master := m, dir := .read, addr := a, be := List.replicate n 15, data := [] }

/-- A write of the words `d` with every byte enabled. -/
def wr (m : Fin 16) (a : Addr) (d : List Word) : Access :=
  { master := m, dir := .write, addr := a, be := List.replicate d.length 15, data := d }

/-- A window entry that is enabled. -/
def win (role : Byte) (v : Fin 8) (size : Nat) (base : Addr) (mapped : Bool) (target : Addr) : WindowEntry :=
  { windowReset with enable := true, roleCode := role, service := v, size := size, base := base, mapped := mapped,
                     target := target }

/-- A segment entry in a state, in zone 3, with every service in its uplink list and the given gains. -/
def seg (st : SegState) (down up : Nat) : SegmentEntry :=
  { segmentReset with enable := st != .offline, zone := 3, stallTimeout := 5, uplinkServices := 255,
                      downlinkGain := down, uplinkGain := up, state := st }

/-- The tunnel: the windows of the example of chapter 2 (0 to 3), those of 5.5 (8 and 9), two MAPPED windows (10 and 11);
base straps 5; segments 3, 6, 7 and 8 ACTIVE, segment 9 STALLED, segment 10 EXCLUDED. -/
def tunnel : State :=
  ({ State.cold with resetLow := false, ready := true, baseStraps := 5, timebase := 100000 } : State)
    |>.setWindow 0 (win 1 1 4 0x04000000 false 0x02000000)
    |>.setWindow 1 (win 2 2 3 0x04004000 false 0x02100000)
    |>.setWindow 2 (win 3 4 4 0x04004000 false 0x02200000)
    |>.setWindow 3 (win 2 2 4 0x05000000 false 0x02300000)
    |>.setWindow 8 (win 2 2 4 0x04100000 false 0x02800000)
    |>.setWindow 9 (win 1 6 4 0x04200000 false 0x02900000)
    |>.setWindow 10 (win 1 3 4 0x04300000 true 0x06000000)
    |>.setWindow 11 (win 2 5 4 0x04400000 true 0x06001000)
    |>.setService 1 { serviceReset with enable := true, deadline := 1000 }
    |>.setService 2 { serviceReset with enable := true, talkthrough := true, source := 6, offset := 3 }
    |>.setService 3 { serviceReset with enable := true, through := true, deadline := 1000 }
    |>.setService 4 { serviceReset with enable := true, program := true, breakIn := true }
    |>.setService 5 { serviceReset with enable := true }
    |>.setService 6 { serviceReset with enable := true, rescue := true, deadline := 1000 }
    |>.setSegment 2 (seg .active 16384 16384)
    |>.setSegment 5 (seg .active 16384 12288)
    |>.setSegment 6 (seg .active 16384 16384)
    |>.setSegment 7 (seg .active 20480 16384)
    |>.setSegment 8 (seg .stalled 16384 16384)
    |>.setSegment 9 (seg .excluded 16384 16384)
    |>.setZone 3 { zoneReset with timing := 4 }

/-- The access is its master's oldest, and it is due to be taken. -/
def queued (s : State) (a : Access) : State :=
  { s.setPort a.master { queue := [a], stage := .waiting } with due := [.take a.master] }

/-- The access has been taken, and is to be handed on to its block. -/
def turn (s : State) (a : Access) : State :=
  { s.setPort a.master { queue := [a], stage := .taken (s.classify a.addr) } with due := [.hand a.master] }

/-- The access as it is sent to memory. -/
def issueOf (a : Access) (hit : Option WinHit) (t : Treatment) (clip : ClipRead) : Issue :=
  { hit := hit, port := { number := a.master.val, dir := a.dir, addr := a.addr, be := a.be, data := a.data }, treat := t,
    answer := none, clip := clip, changed := [] }

/-- The access stands at the memory port. -/
def atMemory (s : State) (a : Access) (hit : Option WinHit) (t : Treatment) (clip : ClipRead) : State :=
  s.setPort a.master { queue := [a], stage := .issued (issueOf a hit t clip) }

/-- A slot of a window's frame. -/
def slot (st : SlotState) (w : Fin 16) (f : Nat) (v : Fin 8) (expected : List (Fin 12)) : Slot :=
  { slotReset with state := st, window := w, frame := f, service := v, expected := expected,
                   timer := if st = .filling then some 101000 else none, deadlineTick := 101000 }

/-- Something that holds of the next state, if there is one. -/
def after (c : Instr) (s : State) (p : State → Bool) : Bool :=
  match exec c s with
  | .next t => p t
  | .fault _ => false
  | .refused _ => false

/-! ## WellFormed: an ill-formed access for each check of R16 -/

theorem test_wellFormed_longest : (Instr.accessRequest (wr 0 0x04000000 (List.replicate 16 7))).wellFormed = true := by decide
theorem test_refused_unaligned :
    exec (.accessRequest (rd 0 0x04000002 4)) tunnel = .refused .malformedAccess := by rfl
theorem test_refused_empty : exec (.accessRequest (rd 0 0x04000000 0)) tunnel = .refused .malformedAccess := by rfl
theorem test_refused_long : exec (.accessRequest (rd 0 0x04000000 17)) tunnel = .refused .malformedAccess := by rfl
theorem test_refused_read_with_data :
    exec (.accessRequest { rd 0 0x04000000 4 with data := [1] }) tunnel = .refused .malformedAccess := by rfl
theorem test_refused_short_data :
    exec (.accessRequest { wr 0 0x04000000 [1, 2] with data := [1] }) tunnel = .refused .malformedAccess := by rfl
theorem test_no_word_spells_a_command : decodeTableWord 32 0 = none := by decide

/-! ## Chapter 1: the arithmetic of the examples -/

theorem test_scale_table : scale 1001 12288 = 751 ∧ scale 18000 20480 = 22500 ∧ scale 32728 11264 = 22501 ∧
    scale (-32768) 65535 = -131070 ∧ scale 32767 65535 = 131066 ∧ scale 32767 16384 = 32767 := by decide
theorem test_power_index : powerIndex (256 * lanePower { lo := 1000, hi := -1000 }) = 7812 ∧
    powerIndex (256 * lanePower { lo := -32768, hi := -32768 }) = 8388608 := by decide
theorem test_equalised_lane : clampLane (scale 1001 20480) = 1251 ∧ clampLane (scale 30000 20480) = 32767 := by decide
theorem test_operand_lanes : operandLanes 0b0011 0x80017FFF = { lo := 32767, hi := 0 } ∧
    operandLanes 0b1111 0x80017FFF = { lo := 32767, hi := -32767 } := by decide
theorem test_partial_word : partialWord 0b0001 = true ∧ partialWord 0b1000 = true ∧ partialWord 0b1100 = false ∧
    partialWord 0 = false := by decide

/-! ## Chapter 2: the eight accesses of its example -/

/-- What R18 finds for an address: window, frame index and word offset. -/
def found (s : State) (a : Addr) : Option (Fin 16 × Nat × Nat) :=
  match s.classify a with
  | .window h => some (h.window, h.frame, h.offset)
  | .control => none
  | .unwindowed => none

theorem test_classified : found tunnel 0x04001408 = some (0, 5, 2) ∧ found tunnel 0x04004FF0 = some (1, 3, 252) ∧
    found tunnel 0x04005000 = some (1, 4, 0) ∧ found tunnel 0x04006000 = some (2, 8, 0) ∧
    found tunnel 0x04000800 = some (0, 2, 0) := by decide +kernel
theorem test_control_before_window : tunnel.classify 0x05000100 = .control ∧ tunnel.classify 0x05003FFC = .control ∧
    tunnel.classify 0x05004000 = .unwindowed ∧ tunnel.classify 0x03000000 = .unwindowed := by decide +kernel
theorem test_boundary_example :
    after (.accessTakenForService 13) (queued tunnel (wr 13 0x04004FF0 (List.replicate 8 0))) (fun t =>
      t.accessFault == { valid := true, kind := some .boundary, master := 13, addr := 0x04004FF0, window := some 1, lost := false }
        && t.responses == [{ master := 13, ok := true, data := [] }]) = true := by decide +kernel
theorem test_role_example :
    after (.uplinkWrite 13) (turn tunnel (wr 13 0x04000800 (List.replicate 16 0))) (fun t =>
      t.accessFault.kind == some .role && t.accessFault.window == some 0) = true := by decide +kernel
theorem test_partial_example :
    after (.uplinkWrite 9)
      (turn (tunnel.setSlot 4 (slot .filling 0 8 1 [2, 8])) { wr 9 0x04002000 [1, 1, 1, 1] with be := [0b1101, 15, 15, 15] })
      (fun t => t.accessFault.kind == some .partialWord && (t.slots.get 4).expected == [2]
        && ((t.slots.get 4).contribs.get 8).state == .broken) = true := by decide +kernel

/-! ## Reading the hypotheses off a state -/

theorem turn_of {s : State} {m : Fin 16} {a : Access} {c : Cls}
    (h : s.departures = [] ∧ s.due.head? = some (.hand m) ∧ s.front m = some a ∧ s.stage m = .taken c) : s.Turn m a c :=
  ⟨⟨h.1, h.2.1⟩, h.2.2⟩

theorem rest_of {s : State} (h : s.due = [] ∧ s.departures = []) : s.AtRest := h

/-- A write of words at an offset of the control region. -/
def put (m : Fin 16) (off : Nat) (d : List Word) : Access := wr m (0x05000000 + BitVec.ofNat 32 off) d

/-! ## The queue of commands, and what the part does of itself -/

theorem witness_StepRunsFrontCommand : tunnel.pending = [] ∧ (tunnel.due = [] ∧ tunnel.departures = []) ∧
    tunnel.resetLow = false ∧ State.cold.pending = [] ∧ (State.cold.due = [] ∧ State.cold.departures = []) ∧
    State.cold.resetLow = true := by decide +kernel
theorem test_idle_tick : (match step tunnel with | .next t => t.timebase | _ => 0) = 100001 := by decide +kernel
theorem witness_DueComesFirst_notices : ({ tunnel with departures := [2] } : State).departures ≠ [] ∧
    Instr.departureNotice 3 ≠ .hardReset ∧ ∀ g ∈ [(2 : Fin 12)], Instr.departureNotice 3 ≠ .departureNotice g := by decide +kernel
theorem witness_DueComesFirst_own : (queued tunnel (rd 13 0x03000000 1)).NextDue (.take 13) ∧
    (queued tunnel (rd 13 0x03000000 1)).Own (.accessTakenForService 13) (.take 13) ∧
    ¬(queued tunnel (rd 13 0x03000000 1)).Own .mapFetchIssue (.take 13) ∧
    (turn tunnel (rd 13 0x03000000 1)).NextDue (.hand 13) ∧
    (turn tunnel (rd 13 0x03000000 1)).Own (.unwindowedAccess 13) (.hand 13) :=
  ⟨by unfold State.NextDue; decide +kernel, rfl, nofun, by unfold State.NextDue; decide +kernel, rfl, _, _, rfl, rfl,
    by decide +kernel⟩
theorem test_taken_and_handed_on_first : after .mapFetchIssue (queued tunnel (rd 13 0x03000000 1)) (fun t =>
    t.due == [] && (t.stage 13).portAccesses ==
      [{ number := 13, dir := .read, addr := 0x03000000, be := [15], data := [] }]) = true := by decide +kernel
/-- R25: the next access of a queue is taken as the one before it is answered; here it counts as the segment's activity. -/
theorem test_next_access_taken : after (.activityTimerExpiry 2)
    (match exec (.memoryAccessAnswer 3 { ok := true, data := [] }) (({ (atMemory tunnel (wr 3 0x03000000 [1]) none .plain
        .absent).setSegment 2 { seg .active 0 0 with timer := some 100000 } with portWaiting := [rd 3 0x03000000 1] } : State)) with
      | .next t => t
      | .fault _ => tunnel
      | .refused _ => tunnel)
    (fun t => (t.segments.get 2).state == .active && (t.segments.get 2).timer == some 105000) = true := by decide +kernel
theorem witness_OnlyMalformedAccessStops : Instr.hardReset.wellFormed = true ∧
    (Instr.accessRequest (rd 0 2 1)).wellFormed = false := by decide
theorem witness_SettleEffects_retired :
    let s := tunnel.setWindow 0 { win 1 1 4 0x04000000 false 0x02000000 with enable := false, retiring := true }
    ((s.windows.get 0).retiring && !s.windowBusy 0) = true ∧ s.settle.listed (.window 0) = true := by decide +kernel
theorem witness_SettleEffects_waiting :
    ({ State.cold with portWaiting := [rd 3 0 1] } : State).settle.portWaiting.head? = some (rd 3 0 1) ∧
      ({ tunnel with portWaiting := [rd 3 0 1] } : State).settle.portWaiting = [] ∧ State.cold.portOpen = false := by
  decide +kernel

/-! ## Faults, events and the write-back list: the ring of 10.6 -/

/-- The ring of 10.6: producer 122, consumer 60. -/
def nearFull : State := { tunnel with producer := 122, consumer := 60 }

/-- The event that stands in the ring's pending list. -/
def short : Event := { kind := .slotShort, object := 4, tag := 0, reason := 1, tick := 7 }

theorem witness_EventJudged_disabled :
    ({ tunnel with request := { requestReset with eventMask := 0 } } : State).request.eventMask.getLsbD EventKind.fault.code =
      false := by decide +kernel
theorem witness_EventJudged_accepted : nearFull.request.eventMask.getLsbD EventKind.fault.code = true ∧
    (nearFull.producer - nearFull.consumer).toNat + [short].length = 63 ∧
    (({ nearFull with events := [short] } : State).raiseEvent .fault 13 0 3).events.length = 2 := by decide +kernel
theorem witness_EventJudged_lost : nearFull.request.eventMask.getLsbD EventKind.cueEnd.code = true ∧
    (nearFull.producer - nearFull.consumer).toNat + [short, short].length = 64 ∧
    (({ nearFull with events := [short, short] } : State).raiseEvent .cueEnd 8 0 1).lostEvents = 1 := by decide +kernel
theorem witness_FaultRecorded : (tunnel.faultRecord false).valid = false ∧
    ((tunnel.raiseFault .role 13 0x04000800 (some 0)).faultRecord false).valid = true ∧
    faultReset ≠ (tunnel.raiseFault .role 13 0x04000800 (some 0)).faultRecord false ∧
    ((tunnel.raiseFault .role 13 0 none).raiseFault .boundary 2 4 none).lostFaults = 1 := by decide +kernel
theorem witness_FaultRecorded_valid :
    let s := ({ tunnel.raiseFault .role 13 0 none with writeBackList := [] } : State).raiseFault .boundary 2 4 none
    s.listed .accessFault = true ∧ s.listed .status = true ∧ s.listed .memoryFault = false ∧
    ({ s with writeBackList := [] } : State).faultRecord false = s.accessFault ∧ s.accessFault.lost = true ∧
    (({ s with writeBackList := [] } : State).raiseFault .role 3 8 none).listed .accessFault = false := by decide +kernel
theorem witness_ListingOnce :
    (([{ id := .zone 2, hostBytes := [1] }, { id := .cue 8, hostBytes := [] }] : List ListedRecord).map (·.id)).Nodup ∧
    (addListed (.zone 2) [0] [{ id := .zone 2, hostBytes := [1] }, { id := .cue 8, hostBytes := [] }]).length = 2 ∧
    RecordId.cue 8 ≠ .zone 2 := by decide

/-! ## Arithmetic -/

theorem witness_ScaleRounds : (-32768 : Int) ≤ -32768 ∧ (32767 : Int) ≤ 32767 ∧ 65535 ≤ 65535 ∧
    scale (-32768) 16384 = -32768 ∧ scale 0 65535 = 0 ∧ scale 32767 0 = 0 := by decide
theorem test_mix_example : mixLane 12000 (-20000) 4096 16384 = -17000 := by decide
theorem witness_GateHysteresis : (5 : Nat) ≤ 10 ∧
    ({ isOpen := false, hold := 0 } : Gate).update 10 10 5 2 = { isOpen := true, hold := 2 } ∧
    ({ isOpen := true, hold := 0 } : Gate).update 5 10 5 2 = { isOpen := true, hold := 2 } ∧
    ({ isOpen := false, hold := 0 } : Gate).update 9 10 5 2 = { isOpen := false, hold := 0 } ∧
    ({ isOpen := true, hold := 1 } : Gate).update 4 10 5 2 = { isOpen := true, hold := 0 } ∧
    ({ isOpen := true, hold := 0 } : Gate).update 4 10 5 2 = { isOpen := false, hold := 0 } ∧
    (∀ x ∈ [4, 0, 4], x < 5) := by decide
theorem witness_RampReachesTarget : (4096 : Nat) ≤ 16384 ∧ (16384 : Nat) ≤ 16384 ∧ 16384 ≤ 4096 + 3 * 4096 ∧
    4096 ≤ 16384 + 3 * 4096 ∧ rampStep 4096 16384 4096 = 12288 ∧ rampStep 16384 12288 8192 = 16384 := by decide
theorem witness_CombineOrderFree :
    let acc : List Lanes := List.replicate 256 { lo := 0, hi := 0 }
    acc[255]? = some { lo := 0, hi := 0 } ∧ 254 ≤ 255 ∧
    ([{ lo := 9, hi := 9 }, { lo := 1001, hi := -1 }] : List Lanes)[255 - 254]? = some { lo := 1001, hi := -1 } ∧
    (addBurst acc 254 12288 [{ lo := 9, hi := 9 }, { lo := 1001, hi := -1 }])[255]? = some { lo := 751, hi := -1 } := by
  decide +kernel

/-! ## Resets, the image write-out and write-backs -/

theorem witness_FaultUnitResets : ∀ m : Fin 16, (State.reset.stage m).isHeld = false := by
  intro m
  exact (by decide +kernel : ∀ m : Fin 16, (({ State.cold with resetLow := false } : State).stage m).isHeld = false) m
theorem witness_ResetReleaseStarts : (State.cold.due = [] ∧ State.cold.departures = []) ∧ State.cold.resetLow = true ∧
    State.cold.qualified = false ∧ State.cold.qualTimer = none ∧ State.cold.writeOut = none := by decide +kernel
theorem test_release_straps : after (.resetRelease 5 3 7) { State.cold with line := true } (fun t =>
    t.regionBase == 0x05000000 && t.incidentMaster == 3 && t.qualTimer == some 10000 && t.timebase == 0) = true := by
  decide +kernel
theorem test_first_image_words : ((State.reset.writeOut.getD { soft := true, left := [], failed := true, image := [] }).word 0,
    (State.reset.writeOut.getD { soft := true, left := [], failed := true, image := [] }).word 17) =
    (0x00012640, 0x3FFF0400) := by decide +kernel
theorem witness_ResetReleaseStarts_image : (State.reset.writeOut.map (·.left) = some (List.range 80)) ∧
    State.reset.imageAccesses.head?.map (fun p => (p.addr, p.data.head?)) = some (State.reset.regionBase, some 0x00012640) ∧
    (State.reset.imageAccesses[1]?).map (fun p => p.data[1]?) = some (some 0x3FFF0400) := by decide +kernel
theorem witness_SoftResetTakes :
    ((turn tunnel (put 0 0x40 [1])).Turn 0 (put 0 0x40 [1]) .control) ∧ (put 0 0x40 [1]).dir = .write ∧
    (turn tunnel (put 0 0x40 [1])).writeHeld 0 (put 0 0x40 [1]) = false ∧
    carried ((turn tunnel (put 0 0x40 [1])).keptBytes 0 (put 0 0x40 [1])) 0x40 = some 1 :=
  ⟨turn_of (by decide +kernel), by decide +kernel⟩
theorem test_soft_reset_keeps_port :
    let f : MapFetch := { request := { owner := .flush 4, window := 0, frame := 5, mapAddr := 0x03100014, own := true },
                          discard := false }
    let b : WriteBack := { id := .window 5, hostBytes := [3], bursts := [], left := [0], failed := false, dropped := false }
    after (.softReset 0) (turn { tunnel with fetch := some f, writeBack := some b } (put 0 0x40 [1])) (fun t =>
      t.fetch == some { f with discard := true } && t.fetchAccess == [ownRead 0x03100014 1] &&
      t.writeBack == some { b with dropped := true }) = true := by decide +kernel
theorem witness_SoftResetTakes_held :
    let a := rd 13 0x04200000 4
    let s := tunnel.setPort 13 { queue := [a], stage := .heldSlot 3 { window := 9, role := .uplink, service := 6, frame := 0, offset := 0 } }
    s.front 13 = some a ∧ boundaryFault (s.classify a.addr) (s.classify (lastAddr a)) = none ∧ (s.stage 13).isHeld = true ∧
    (tunnel.stage 13).isHeld = false ∧
    (State.cold.inRegion 0 = true ∧ State.cold.classify 0 = .control) := by decide +kernel

/-- The write-out of the tunnel with these bursts unanswered. -/
def writing (left : List Nat) : State :=
  { tunnel with ready := false, writeOut := some { soft := true, left := left, failed := false, image := [] } }

theorem witness_ImageWriteOutAnswered : ((writing [3, 79]).due = [] ∧ (writing [3, 79]).departures = []) ∧ 79 ∈ [3, 79] ∧ [3, 79].erase 79 ≠ [] ∧
    [79].erase 79 = [] ∧
    after (.imageWriteOutBurstAnswer 79 false) (writing [79]) (fun t => t.ready && t.memoryFault ==
      { valid := true, kind := some .writebackError, master := 16, addr := 0x050013C0, window := none, lost := false }) =
      true := by decide +kernel

/-- Zone 2 and window 5 stand on the list, with the bytes of the example of 9.7. -/
def listedTwo : State :=
  { tunnel with writeBackList := [{ id := .zone 2, hostBytes := [] }, { id := .window 5, hostBytes := [3, 4, 5] }] }

theorem witness_WriteBackStarts : (listedTwo.due = [] ∧ listedTwo.departures = []) ∧ listedTwo.writeOut = none ∧ listedTwo.writeBack = none ∧
    listedTwo.writeBackList.head?.map (·.id) = some (.zone 2) ∧ listedTwo.awaitsWrite (.zone 2) = false := by decide +kernel
theorem witness_WriteBackStarts_bursts : (0 < recordSize (.window 5)) ∧ (ListedRecord.mk (.window 5) [3, 4, 5]).writes 3 = true ∧
    (ListedRecord.mk (.window 5) [3, 4, 5]).writes 31 = true ∧ (ListedRecord.mk (.window 5) []).writes 3 = false ∧
    (tunnel.backBursts { id := .zone 2, hostBytes := [] }).length = 2 := by decide +kernel

/-- A write-back of the status block is in flight, with one burst. -/
def writingBack : State :=
  let p : MemAccess := { number := 16, dir := .write, addr := 0x05000004, be := [15], data := [0] }
  let b : WriteBack := { id := .status, hostBytes := [], bursts := [p], left := [0], failed := false, dropped := false }
  { tunnel with writeBack := some b }

theorem witness_WriteBackAnswered : (writingBack.due = [] ∧ writingBack.departures = []) ∧
    (writingBack.writeBack.map (fun b => (b.dropped, b.left, b.left.erase 0, b.bursts.length))) = some (false, [0], [], 1) ∧
    after (.writeBackBurstAnswer 0 false) writingBack (fun t => t.writeBack == none && t.memoryFault.addr == 0x05000004
      && t.memoryFault.kind == some .writebackError && !t.listed .status) = true := by decide +kernel
theorem witness_WriteBackAnswered_two : ([0, 1] : List Nat).erase 1 ≠ [] ∧ RecordId.zone 2 ≠ .status ∧
    RecordId.zone 2 ≠ .memoryFault := by decide
theorem witness_WriteBackAnswered_held :
    let s := writingBack.setPort 3 { queue := [rd 3 0x05000000 1], stage := .heldRecords [.status] }
    s.front 3 = some (rd 3 0x05000000 1) ∧ RecordId.status ∈ [RecordId.status] ∧
      after (.writeBackBurstAnswer 0 true) s (fun t => (t.stage 3).portAccesses ==
        [{ number := 3, dir := .read, addr := 0x05000000, be := [15], data := [] }]) = true := by decide +kernel
theorem witness_EventWritten : (({ nearFull with events := [short] } : State).due = [] ∧
      ({ nearFull with events := [short] } : State).departures = []) ∧
    ({ nearFull with events := [short] } : State).writeOut = none ∧
    ({ nearFull with events := [short] } : State).eventInFlight = false ∧
    (({ nearFull with events := [short], eventInFlight := true } : State).eventAccess.map (·.addr)) = [0x050017A0] ∧
    after (.eventWriteAnswer true) { nearFull with events := [short], eventInFlight := true } (fun t =>
      t.producer == 123 && t.ringCount == 63 && t.events == [] && t.listed .status) = true := by decide +kernel
theorem witness_AttentionFollowsCount :
    (({ tunnel with events := [short], eventInFlight := true } : State).due = [] ∧
      ({ tunnel with events := [short], eventInFlight := true } : State).departures = []) ∧
    (tunnel.producer - tunnel.consumer).toNat = 0 ∧
    (({ nearFull with producer := 123 } : State).setConsumer 100).ringCount = 23 ∧
    (({ nearFull with producer := 124, consumer := 100 } : State).setConsumer 20).attention = true := by decide +kernel
theorem test_consumer_beyond_ring : normaliseConsumer 124 20 = 124 ∧ normaliseConsumer 123 100 = 100 ∧
    normaliseConsumer 64 0 = 0 ∧ normaliseConsumer 65 0 = 65 := by decide

/-! ## The system port -/

theorem tunnel_rests : tunnel.settle = tunnel :=
  settle_rest tunnel (by decide +kernel) (by decide +kernel)
theorem witness_AccessRequested : (tunnel.due = [] ∧ tunnel.departures = []) ∧ tunnel.settle = tunnel ∧ (rd 3 0x04000000 16).wellFormed = true ∧
    tunnel.portWaiting = [] ∧ tunnel.portOpen = true ∧ (tunnel.ports.get 3).queue.length < 4 ∧
    State.cold.portOpen = false := ⟨by decide +kernel, tunnel_rests, by decide +kernel⟩
theorem witness_AddressClassified : tunnel.WindowSound ∧
    (∀ w, (tunnel.windows.get w).enable = true → (tunnel.windows.get w).role ≠ none) := by
  refine ⟨fun w => ?_, by decide +kernel⟩
  revert w
  unfold WindowEntry.Sound
  decide +kernel
theorem witness_AccessTaken_sample :
    let a := rd 6 0x04005000 16
    let s := queued tunnel a
    (s.departures = [] ∧ s.due.head? = some (.take 6)) ∧ s.resetLow = false ∧ s.front 6 = some a ∧ s.stage 6 = .waiting ∧
    boundaryFault (s.classify a.addr) (s.classify (lastAddr a)) = none ∧
    s.classify a.addr = .window { window := 1, role := .downlink, service := 2, frame := 4, offset := 0 } ∧
    hasPartial a = false ∧ hasPartial { a with be := [1] } = true ∧ (s.segments.get 0).state = .offline ∧
    (∀ g, segOf 6 = some g → (s.segments.get g).state ≠ .offline) := by decide +kernel
theorem witness_AccessTaken_classes :
    boundaryFault (tunnel.classify 0x04004FF0) (tunnel.classify (lastAddr (rd 13 0x04004FF0 8))) = some (some 1) ∧
    boundaryFault (tunnel.classify 0x04004FF0) (tunnel.classify (lastAddr (rd 13 0x04004FF0 4))) = none ∧
    tunnel.classify 0x05000000 = .control ∧ tunnel.classify 0x03000000 = .unwindowed := by decide +kernel
theorem test_offline_counted : after (.accessTakenForService 1) (queued tunnel (rd 1 0x04005000 2)) (fun t =>
    (t.segments.get 0).offlineAccesses == 1 && t.responses == [{ master := 1, ok := true, data := [0, 0] }]
      && !t.accessFault.valid) = true := by decide +kernel
theorem test_partial_read_served : after (.accessTakenForService 6)
    (queued tunnel { rd 6 0x04005000 1 with be := [1] }) (fun t =>
      t.accessFault.kind == some .partialWord && t.due == [.hand 6]) = true := by decide +kernel
theorem witness_AccessTaken_boundary : ∃ h h' : WinHit, boundaryFault (.window h) (.window h') = some (some h.window) ∧
    boundaryFault (.control) (.window h') = some (some h'.window) ∧ boundaryFault .unwindowed .control = some none ∧
    (∀ x, Cls.control ≠ .window x) := by
  refine ⟨{ window := 0, role := .uplink, service := 1, frame := 3, offset := 0 },
    { window := 0, role := .uplink, service := 1, frame := 4, offset := 0 }, by decide, by decide, by decide, ?_⟩
  intro x h
  cases h
theorem witness_NoticesGiven : segOf 0 = none ∧ segOf 13 = none ∧ segOf 1 = some 0 ∧ segOf 12 = some 11 ∧
    (tunnel.segments.get 0).state = .offline ∧ (tunnel.segments.get 9).state = .excluded ∧
    (tunnel.segments.get 2).state = .active ∧ (tunnel.segments.get 8).state = .stalled ∧
    ((tunnel.noticeAccess 9).segments.get 8).timer = some 105000 ∧
    ((tunnel.noticeAccess 9).segments.get 8).state = .active := by decide +kernel
theorem test_snooped_map_entry :
    let c : CacheEntry := { window := 10, frame := 15, phys := 0x02A00000 }
    let s : State := { tunnel with cache := [c] }
    s.cacheAddr c = 0x0600003C ∧ (s.notices 0 (wr 0 0x0600003C [1])).cache = [] ∧
    (s.notices 0 (wr 0 0x0600003C [1])).hazards = [{ addr := 0x0600003C, source := .master 0 }] ∧
    (s.notices 0 (wr 0 0x06000040 [1])).cache = [c] ∧ (s.notices 0 (wr 0 0x06000040 [1])).hazards = [] := by decide +kernel

/-! ## Traffic through the Frame Translator, and the memory's answers -/

/-- The hit of an address, as a window class; a hit of window 0 where there is none. -/
def hitOf (s : State) (a : Addr) : WinHit :=
  match s.classify a with
  | .window h => h
  | .control => { window := 0, role := .uplink, service := 0, frame := 0, offset := 0 }
  | .unwindowed => { window := 0, role := .uplink, service := 0, frame := 0, offset := 0 }

/-- The access is a turn at a sample window, and `p` holds of the state and the hit. -/
def isTurn (s : State) (a : Access) (p : State → WinHit → Bool) : Bool :=
  (turn s a).departures == [] && (turn s a).classify a.addr == .window (hitOf s a.addr)
    && (turn s a).stage a.master == .taken (.window (hitOf s a.addr)) && (turn s a).front a.master == some a
    && p (turn s a) (hitOf s a.addr)

theorem turn_of_isTurn {s : State} {a : Access} {p : State → WinHit → Bool} (h : isTurn s a p = true) :
    (turn s a).Turn a.master a (.window (hitOf s a.addr)) ∧ p (turn s a) (hitOf s a.addr) = true := by
  simp only [isTurn, Bool.and_eq_true, beq_iff_eq] at h
  exact ⟨⟨⟨h.1.1.1.1, rfl⟩, h.1.2, h.1.1.2⟩, h.2⟩

theorem witness_UnchangedTrafficPasses_unwindowed :
    (turn tunnel (wr 14 0x03000000 [1])).Turn 14 (wr 14 0x03000000 [1]) .unwindowed := turn_of (by decide +kernel)
theorem witness_UnchangedTrafficPasses_direct :
    (turn tunnel (wr 13 0x04102C00 [1])).Turn 13 (wr 13 0x04102C00 [1]) (.window (hitOf tunnel 0x04102C00)) ∧
    (((hitOf tunnel 0x04102C00).role == .downlink && !(tunnel.windows.get 8).translation.1
      && !tunnel.inRegion 0x02802C00 && segOf 13 == none) = true) :=
  turn_of_isTurn (a := wr 13 0x04102C00 [1]) (p := fun s h => h.role == .downlink && !(s.windows.get 8).translation.1
      && !s.inRegion 0x02802C00 && segOf 13 == none) (by decide +kernel)
theorem test_host_write_translated : after (.downlinkWrite 13) (turn tunnel (wr 13 0x04102C00 [1])) (fun t =>
    (t.stage 13).portAccesses.map (fun p => (p.number, p.addr, p.data)) == [(13, 0x02802C00, [1])]) = true := by decide +kernel
theorem test_host_read_unchanged : after (.downlinkRead 0) (turn tunnel (rd 0 0x04102800 16)) (fun t =>
    (t.stage 0).portAccesses.map (fun p => (p.number, p.addr)) == [(0, 0x02802800)]) = true := by decide +kernel
theorem test_uplink_read_passes : after (.uplinkRead 13) (turn tunnel (rd 13 0x04001800 16)) (fun t =>
    (t.stage 13).portAccesses.map (fun p => (p.number, p.addr)) == [(13, 0x02001800)]) = true := by decide +kernel
theorem test_program_write_passes : after (.programWrite 14) (turn tunnel (wr 14 0x04006004 [5])) (fun t =>
    (t.stage 14).portAccesses.map (fun p => (p.number, p.addr)) == [(14, 0x02202004)]) = true := by decide +kernel
theorem test_program_read_by_host : after (.programRead 0) (turn tunnel (rd 0 0x04006000 1)) (fun t =>
    (t.stage 0).portAccesses.map (fun p => (p.number, p.addr)) == [(0, 0x02202000)]) = true := by decide +kernel
/-- A direct window that lies on the control region, and a map region that does. -/
def badTargets : State :=
  (tunnel.setWindow 8 (win 2 2 4 0x04100000 false 0x05000000)).setWindow 11 (win 2 5 4 0x04400000 true 0x05001000)

theorem witness_UnchangedTrafficPasses_unmapped :
    isTurn badTargets (wr 13 0x04100000 [1]) (fun s h => !(s.windows.get h.window).translation.1 && s.inRegion 0x05000000)
      = true ∧
    isTurn badTargets (wr 13 0x04400400 [1]) (fun s h => (s.windows.get h.window).translation.1 && s.inRegion 0x05001004)
      = true ∧
    after (.downlinkWrite 13) (turn badTargets (wr 13 0x04400400 [1])) (fun t => t.accessFault ==
      { valid := true, kind := some .unmapped, master := 13, addr := 0x05001004, window := some 11, lost := false }) =
        true := by decide +kernel
theorem witness_UnchangedTrafficPasses_mapped :
    let c : CacheEntry := { window := 11, frame := 1, phys := 0x02A00400 }
    isTurn { tunnel with cache := [c] } (wr 13 0x04400400 [1]) (fun s _ => s.cached 11 1 == some c && !s.inRegion 0x06001004)
      = true ∧
    isTurn tunnel (wr 13 0x04400400 [1]) (fun s _ => s.cached 11 1 == none && s.translationWaits == []
      && s.translations.length < 8) = true ∧
    let r : TransReq := { owner := .flush 0, window := 10, frame := 3, mapAddr := 0, own := true }
    isTurn { tunnel with translations := List.replicate 8 r } (wr 13 0x04400400 [1]) (fun s _ => 8 ≤ s.translations.length) = true := by decide +kernel

theorem witness_ReadsSentThrough :
    let c : CacheEntry := { window := 11, frame := 1, phys := 0x02A00400 }
    (tunnel.windows.get 9).translation = (false, 0x02900000) ∧ tunnel.inRegion 0x02901C00 = false ∧
    badTargets.inRegion 0x05000000 = true ∧ (tunnel.windows.get 11).translation = (true, 0x06001000) ∧
    tunnel.inRegion 0x06001004 = false ∧ badTargets.inRegion 0x05001004 = true ∧
    ({ tunnel with cache := [c] } : State).cached 11 1 = some c ∧ tunnel.cached 11 1 = none ∧
    tunnel.translationWaits = [] ∧ tunnel.translations.length < 8 ∧
    ((tunnel.setSlot 5 (slot .filling 9 7 6 [6])).slots.get 5).state ≠ .free ∧
    (∀ n, (tunnel.slots.get n).state = .free) ∧ tunnel.inRegion 0x03A00000 = false := by decide +kernel

/-- A mapped equalised read that misses the cache, then its fetch answered. -/
theorem test_mapped_equalised_read :
    after (.mapFetchComplete true 0x02A00401)
      (match exec .mapFetchIssue (match exec (.downlinkRead 7) (turn tunnel (rd 7 0x04400400 4)) with
        | .next t => t
        | .fault _ => tunnel
        | .refused _ => tunnel) with
      | .next t => t
      | .fault _ => tunnel
      | .refused _ => tunnel)
      (fun t => t.memoryPort.map (fun p => (p.number, p.addr)) == [(7, 0x02A00400)] &&
        (match t.stage 7 with | .issued i => i.treat == .equalise 16384 | _ => false)) = true := by decide +kernel

/-- A request of a master for frame 1 of window 11. -/
def wants (m : Fin 16) : TransReq := { owner := .master m, window := 11, frame := 1, mapAddr := 0x06001004, own := false }

/-- A write of master 13 waits for the translation of frame 1 of window 11. -/
def translating : State :=
  { tunnel.setPort 13 { queue := [wr 13 0x04400400 [1]], stage := .translating (hitOf tunnel 0x04400400) .plain false } with
    translations := [wants 13] }

theorem witness_TranslationQueueServed : (({ tunnel with translationWaits := [wants 3] } : State).due = [] ∧
      ({ tunnel with translationWaits := [wants 3] } : State).departures = []) ∧
    ({ tunnel with translationWaits := [wants 3] } : State).translations.length < 8 ∧
    (translating.due = [] ∧ translating.departures = []) ∧ translating.fetch = none ∧
    translating.translations = [] ++ wants 13 :: [] ∧
    (∀ h ∈ translating.hazards, h.addr ≠ 0x06001004) ∧
    after .mapFetchIssue { translating with hazards := [{ addr := 0x06001004, source := .master 0 }] }
      (fun t => t.fetch == none) = true := by decide +kernel

/-- R25, R40: the write that has come into service finds the translation queue full; master 14's request is not taken. -/
theorem test_waiting_closes_port :
    let s : State := { tunnel with translations := List.replicate 8 (wants 3),
                                   portWaiting := [wr 13 0x04400400 [1], rd 14 0x03000000 1] }
    s.settle.due = [.take 13] ∧ s.settle.catchUp.translationWaits = [wants 13] ∧
      s.settle.catchUp.portWaiting = [rd 14 0x03000000 1] := by decide +kernel

/-- The map fetch for it is in flight. -/
def fetching (d : Bool) : State := { translating with fetch := some { request := wants 13, discard := d } }

theorem witness_MapFetchCompleted : ((fetching true).due = [] ∧ (fetching true).departures = []) ∧ (fetching false).fetch =
      some { request := wants 13, discard := false } ∧
    (0x02A00401 : Word).getLsbD 0 = true ∧ (fetching false).inRegion 0x02A00400 = false ∧
    (0x02A00400 : Word).getLsbD 0 = false ∧ (fetching false).inRegion 0x05000000 = true ∧
    ((fetching false).windows.get 11).enable = true ∧ ((fetching false).windows.get 11).translation.1 = true ∧
    mapEntryAddr ((fetching false).windows.get 11).translation.2 1 = 0x06001004 ∧
    (fetching false).front 13 = some (wr 13 0x04400400 [1]) ∧
    (fetching false).stage 13 = .translating (hitOf tunnel 0x04400400) .plain false := by decide +kernel
theorem test_fetch_gives : after (.mapFetchComplete true 0x02A00401) (fetching false) (fun t =>
    t.cache == [{ window := 11, frame := 1, phys := 0x02A00400 }] && t.translations == [] &&
    (t.stage 13).portAccesses.map (·.addr) == [0x02A00400]) = true := by decide +kernel
theorem test_fetch_dropped : after (.mapFetchComplete true 0x02A00401) (fetching true) (fun t =>
    t.cache == [] && t.translations == [wants 13] && t.fetch == none) = true := by decide +kernel
theorem test_fetch_error : after (.mapFetchComplete false 0) (fetching false) (fun t =>
    t.memoryFault.kind == some .mapError && t.memoryFault.addr == 0x06001004 && t.memoryFault.window == some 11 &&
    t.responses == [{ master := 13, ok := true, data := [] }]) = true := by decide +kernel

/-- The hit of the downlink read of the example of 5.1, and of a programme read. -/
def downHit : WinHit := { window := 1, role := .downlink, service := 2, frame := 4, offset := 0 }
def progHit : WinHit := { window := 2, role := .program, service := 4, frame := 8, offset := 0 }

theorem atMemory_at {s : State} {a : Access} {hit : Option WinHit} {t : Treatment} {clip : ClipRead}
    (h : (s.due = [] ∧ s.departures = []) ∧ (atMemory s a hit t clip).front a.master = some a ∧
      (atMemory s a hit t clip).stage a.master = .issued (issueOf a hit t clip)) :
    (atMemory s a hit t clip).AtMemory a.master a (issueOf a hit t clip) := h

theorem witness_MemoryAccessAnswered : (atMemory tunnel (rd 6 0x04005000 1) (some downHit) (.equalise 20480)
      .absent).AtMemory 6 (rd 6 0x04005000 1) (issueOf (rd 6 0x04005000 1) (some downHit) (.equalise 20480) .absent) :=
  atMemory_at (by decide +kernel)
theorem witness_MemoryAccessAnswered_plain : (atMemory tunnel (wr 14 0x03000000 [1]) none .plain .absent).AtMemory 14
      (wr 14 0x03000000 [1]) (issueOf (wr 14 0x03000000 [1]) none .plain .absent) := atMemory_at (by decide +kernel)
theorem test_answers_fit : answerFits (rd 6 0x04005000 1) { ok := true, data := [1] } = true ∧
    answerFits (rd 6 0x04005000 1) { ok := false, data := [] } = true ∧
    answerFits (wr 6 0x04005000 [1]) { ok := true, data := [] } = true := by decide
theorem test_equalised_answer : after (.memoryAccessAnswer 6 { ok := true, data := [0x753003E9] })
    (atMemory tunnel (rd 6 0x04005000 1) (some downHit) (.equalise 20480) .absent) (fun t =>
      t.responses == [{ master := 6, ok := true, data := [0x7FFF04E3] }]) = true := by decide +kernel
theorem test_read_error : after (.memoryAccessAnswer 6 { ok := false, data := [] })
    (atMemory tunnel (rd 6 0x04005000 1) (some downHit) (.equalise 20480) .absent) (fun t =>
      t.responses == [{ master := 6, ok := false, data := [0] }] && t.memoryFault ==
      { valid := true, kind := some .readError, master := 6, addr := 0x04005000, window := some 1, lost := false }) = true := by
  decide +kernel

/-- The mix values of the example of 1.6, and its clip read. -/
def mixOf : MixValues := { clip := some 0x03A00000, gd := 4096, gi := 16384 }
def clipRead : MemAccess := { number := 16, dir := .read, addr := 0x03A00000, be := [15], data := [] }

theorem witness_TransformedReadsAnswered_mixed : (atMemory tunnel (rd 6 0x04006000 1) (some progHit) (.mix mixOf)
      (.issued clipRead)).AtMemory 6 (rd 6 0x04006000 1)
      (issueOf (rd 6 0x04006000 1) (some progHit) (.mix mixOf) (.issued clipRead)) := atMemory_at (by decide +kernel)
theorem test_mixed_answer :
    after (.clipReadAnswer 6 { ok := true, data := [0xB1E0B1E0] })
      (match exec (.memoryAccessAnswer 6 { ok := true, data := [0x2EE02EE0] })
        (atMemory tunnel (rd 6 0x04006000 1) (some progHit) (.mix mixOf) (.issued clipRead)) with
        | .next t => t
        | .fault _ => tunnel
        | .refused _ => tunnel)
      (fun t => t.responses == [{ master := 6, ok := true, data := [0xBD98BD98] }]) = true := by decide +kernel
theorem test_clip_error : after (.clipReadAnswer 6 { ok := false, data := [] })
    (atMemory tunnel (rd 6 0x04006000 1) (some progHit) (.mix mixOf) (.issued clipRead)) (fun t =>
      t.memoryFault ==
        { valid := true, kind := some .clipError, master := 16, addr := 0x03A00000, window := some 2, lost := false }
          && t.responses == []) = true := by decide +kernel
theorem witness_TransformedReadsAnswered_talkthrough : (atMemory tunnel (rd 8 0x04102880 1) (some (hitOf tunnel 0x04102880))
      (.talkthrough 20480 2 9 7) .absent).AtMemory 8 (rd 8 0x04102880 1)
      (issueOf (rd 8 0x04102880 1) (some (hitOf tunnel 0x04102880)) (.talkthrough 20480 2 9 7) .absent) :=
  atMemory_at (by decide +kernel)
theorem test_talkthrough_error : after (.talkthroughSourceAnswer 8 { ok := false, data := [] })
    (atMemory tunnel (rd 8 0x04102880 1) (some (hitOf tunnel 0x04102880)) (.talkthrough 20480 2 9 7) .absent) (fun t =>
      t.responses == [{ master := 8, ok := true, data := [0] }] && t.memoryFault.window == some 9) = true := by decide +kernel

/-! ## Uplink traffic: the ring of 4.2 -/

/-- The tunnel with window 0's horizon at a frame. -/
def horizonAt (n : Nat) : State :=
  tunnel.setWindow 0 { win 1 1 4 0x04000000 false 0x02000000 with horizon := some n }

/-- A first burst of segment 3 for a frame of window 0. -/
def first (f : Nat) : Access := wr 3 (0x04000000 + BitVec.ofNat 32 (1024 * f)) (List.replicate 16 0x00010001)

/-- The horizon and the late writes of segment 3 after such a burst. -/
def judged (s : State) (f : Nat) : Option (Option Nat × Nat) :=
  match exec (.uplinkWrite 3) (turn s (first f)) with
  | .next t => some ((t.windows.get 0).horizon, (t.segments.get 2).lateWrites)
  | .fault _ => none
  | .refused _ => none

theorem test_horizon_example : judged tunnel 5 = some (some 5, 0) ∧ judged (horizonAt 5) 6 = some (some 6, 0) ∧
    judged (horizonAt 6) 5 = some (some 6, 1) ∧ judged (horizonAt 6) 6 = some (some 6, 1) ∧
    judged (horizonAt 6) 14 = some (some 6, 1) ∧ judged (horizonAt 6) 13 = some (some 13, 0) ∧
    judged (horizonAt 13) 0 = some (some 0, 0) ∧ judged (horizonAt 0) 9 = some (some 0, 1) := by decide +kernel

/-- The hypotheses on an UPLINK write of a segment that carries the service. -/
def uplinkTurn (s : State) (a : Access) (g : Fin 12) (p : State → WinHit → Bool) : Bool :=
  isTurn s a fun t h => h.role == .uplink && a.dir == .write && segOf a.master == some g
    && (t.segments.get g).uplinkServices.getLsbD h.service.val && p t h

theorem witness_UplinkWriteDropped :
    isTurn (tunnel.setSegment 2 { seg .active 0 0 with uplinkServices := 1 }) (first 5)
      (fun t h => h.role == .uplink && !(t.segments.get 2).uplinkServices.getLsbD h.service.val) = true ∧
    uplinkTurn tunnel { first 5 with be := List.replicate 16 1 } 2
      (fun t h => hasPartial { first 5 with be := List.replicate 16 1 } && t.slotOf h.window h.frame == none) = true ∧
    uplinkTurn (tunnel.setSlot 4 (slot .flushing 0 5 1 [2])) { first 5 with be := List.replicate 16 1 } 2
      (fun t h => t.slotOf h.window h.frame == some 4) = true ∧
    uplinkTurn tunnel (wr 10 0x04001400 [1]) 9 (fun t _ => (t.segments.get 9).state == .excluded) = true ∧
    uplinkTurn (tunnel.setSlot 4 (slot .flushing 0 5 1 [2])) (first 5) 2
      (fun t h => !hasPartial (first 5) && t.slotOf h.window h.frame == some 4) = true ∧
    uplinkTurn { tunnel with allocs := [{ window := 0, frame := 5, slot := 4, writers := [9] }] } (first 5) 2
      (fun t h => (t.allocOf h.window h.frame).isSome && t.slotOf h.window h.frame == none) = true ∧
    uplinkTurn (horizonAt 5) (first 5) 2 (fun t h => t.allocOf h.window h.frame == none) = true ∧
    uplinkTurn (horizonAt 13) (first 5) 2 (fun t h => t.slotOf h.window h.frame == none) = true := by decide +kernel
theorem witness_UplinkBurstJudged :
    uplinkTurn (tunnel.setSlot 4 (slot .filling 0 5 1 [2])) (first 5) 2 (fun t h => !hasPartial (first 5)
      && (t.segments.get 2).state != .excluded && t.slotOf h.window h.frame == some 4
      && (t.slots.get 4).state == .filling) = true ∧ (first 5).wellFormed = true := by decide +kernel
theorem test_three_gains : after (.uplinkWrite 6)
    (turn (tunnel.setSlot 4 (slot .filling 0 5 1 [2, 5])) (wr 6 0x04001400 [0x03E903E9])) (fun t =>
      (t.slots.get 4).acc[0]? == some { lo := 751, hi := 751 } && ((t.slots.get 4).contribs.get 5).next == 1 &&
      ((t.slots.get 4).contribs.get 5).gain == 12288 && t.responses == [{ master := 6, ok := true, data := [] }]) = true := by
  decide +kernel
theorem test_sequence_breaks : after (.uplinkWrite 6)
    (turn (tunnel.setSlot 4 (slot .filling 0 5 1 [2, 5])) (wr 6 0x04001408 [1])) (fun t =>
      (t.segments.get 5).sequenceErrors == 1 && (t.slots.get 4).expected == [2] && (t.slots.get 4).state == .filling) =
      true := by decide +kernel
theorem test_last_burst_completes :
    let c : Contrib := { contribReset with state := .filling, next := 240, gain := 16384 }
    let t : Slot := slot .filling 0 5 1 [2]
    after (.uplinkWrite 3) (turn (tunnel.setSlot 4 { t with contribs := setAt t.contribs 2 c })
      (wr 3 0x040017C0 (List.replicate 16 0x00010001))) (fun t =>
        (t.slots.get 4).state == .flushing && (t.slots.get 4).outcome == .complete && (t.services.get 1).complete == 1 &&
        t.memoryPort.length == 16 && (t.memoryPort.map (·.addr)).head? == some 0x02001400) = true := by decide +kernel
theorem witness_UplinkFrameAllocated : uplinkTurn tunnel (first 5) 2 (fun t h => !hasPartial (first 5)
      && (t.segments.get 2).state != .excluded && t.slotOf h.window h.frame == none
      && t.allocOf h.window h.frame == none && (t.windows.get 0).horizon == none) = true ∧
    uplinkTurn (horizonAt 4) (first 5) 2 (fun t h => (h.frame + 16 - 4 % 16) % 16 == 1 && (t.slots.get 0).state == .free) =
      true ∧
    uplinkTurn (horizonAt 14) (first 5) 2 (fun _ h => (h.frame + 16 - 14 % 16) % 16 == 7) = true := by decide +kernel

/-- Every slot taken: FILLING ones of window 9 with rising deadlines, or FLUSHING ones. -/
def fullStore (st : SlotState) : State :=
  { tunnel with slots := Vector.ofFn fun n =>
      { slot st 9 (n.val % 16) 6 [] with deadlineTick := 101000 - BitVec.ofNat 32 n.val } }

theorem witness_UplinkFrameAllocated_full :
    uplinkTurn (fullStore .filling) (first 5) 2 (fun t _ => (List.finRange 16).all (fun n => (t.slots.get n).state == .filling))
      = true ∧
    uplinkTurn (fullStore .flushing) (first 5) 2 (fun t _ => (t.slots.get 0).state == .flushing && !(t.slots.get 0).claimed) =
      true := by decide +kernel
theorem test_eviction : after (.uplinkWrite 3) (turn (fullStore .filling) (first 5)) (fun t =>
    (t.slots.get 15).state == .flushing && (t.slots.get 15).outcome == .evicted && (t.slots.get 15).claimed &&
    t.allocs == [{ window := 0, frame := 5, slot := 15, writers := [3] }] && (t.services.get 6).evictions == 1 &&
    t.events.map (·.kind) == [.slotEvicted, .slotShort]) = true := by decide +kernel
theorem witness_SlotEntersFlushing : SlotOutcome.deadline ≠ .none ∧ SlotOutcome.complete ≠ .none ∧
    tunnel.eventEnabled .slotShort = true ∧ tunnel.ringCount + tunnel.events.length < 64 ∧
    (2 : Fin 12) ∈ (slot .filling 0 5 1 [2]).expected ∧ ((slot .filling 0 5 1 [2]).contribs.get 2).state ≠ .done ∧
    (slot .filling 0 5 1 [2]).expected.count 2 = 1 := by decide +kernel

theorem witness_SlotEntersFlushing_lost :
    let s : State := { tunnel with producer := 64, consumer := 0, writeBackList := [] }
    s.eventEnabled .slotShort = true ∧ s.ringCount + s.events.length = 64 ∧
    ((s.setSlot 4 (slot .filling 0 5 1 [2])).enterFlushing 4 .deadline).lostEvents = s.lostEvents + 1 ∧
    ((s.setSlot 4 (slot .filling 0 5 1 [2])).enterFlushing 4 .deadline).listed .status = true ∧
    ((s.setSlot 4 (slot .filling 0 5 1 [2])).enterFlushing 4 .complete).lostEvents = s.lostEvents := by decide +kernel

/-- Slot 4 holds frame 5 of window 0, with segment 3 expected. -/
def filling : State := tunnel.setSlot 4 (slot .filling 0 5 1 [2])

theorem witness_FlushStarts : (({ filling with timebase := 101000 } : State).due = [] ∧
      ({ filling with timebase := 101000 } : State).departures = []) ∧
    (({ filling with timebase := 101000 } : State).slots.get 4).state = .filling ∧
    (({ filling with timebase := 101000 } : State).slots.get 4).timer = some 101000 ∧
    ((tunnel.setSlot 4 (slot .filling 0 5 1 [])).slots.get 4).expected = [] ∧
    (filling.windows.get 0).translation.1 = false ∧ filling.inRegion 0x02001400 = false ∧
    (filling.windows.get 10).translation.1 = true ∧ filling.inRegion 0x06000014 = false ∧
    filling.cached 10 5 = none ∧ filling.allocs = [] ∧ (filling.windows.get 0).enable = true ∧
    (filling.windows.get 4).enable = false ∧
    (({ filling with segments := Vector.replicate 12 segmentReset } : State).freshSlot 0 6).isComplete = true := by
  decide +kernel
theorem test_deadline : after (.deadlineExpiry 4) { filling with timebase := 101000 } (fun t =>
    (t.slots.get 4).outcome == .deadline && (t.services.get 1).short == 1 && (t.segments.get 2).consecutive == 1 &&
    t.handovers == [2] && t.events.map (fun e => (e.kind, e.object, e.reason)) == [(.slotShort, 4, 1)]) = true := by
  decide +kernel
theorem test_deadline_not_due : after (.deadlineExpiry 4) filling (fun t => (t.slots.get 4).state == .filling) = true := by
  decide +kernel

/-- Slot 4 is being flushed, with these bursts unanswered. -/
def flushing (left : List (Fin 16)) : State :=
  tunnel.setSlot 4 { slot .flushing 0 5 1 [] with flush := some { phys := 0x02001400, left := left, failed := false } }

theorem test_refused_flush :
    let t := (flushing []).flushRefused 4
    (t.slots.get 4).state = .free ∧ (t.services.get 1).flushErrors = 1 ∧ t.listed (.service 1) = true ∧
      t.listed (.slot 4) = true := by decide +kernel
theorem witness_FlushBurstAnswered : ((flushing [3, 7]).due = [] ∧ (flushing [3, 7]).departures = []) ∧ (flushing [3, 7]).staleBursts = [] ∧
    ((flushing [3, 7]).slots.get 4).flush = some { phys := 0x02001400, left := [3, 7], failed := false } ∧
    ([3, 7] : List (Fin 16)).filter (fun x => x != 7) ≠ [] ∧ ([7] : List (Fin 16)).filter (fun x => x != 7) = [] ∧
    (flushing [7]).allocs = [] ∧
    (({ flushing [7] with allocs := [{ window := 0, frame := 6, slot := 4, writers := [3] }] } : State).allocs.find?
      (fun q => q.slot == 4)).isSome = true ∧ (tunnel.windows.get 0).enable = true ∧ (tunnel.windows.get 4).enable = false := by
  decide +kernel
theorem witness_FlushBurstAnswered_stale :
    let p : MemAccess := { number := 16, dir := .write, addr := 0x020015C0, be := [15], data := [0] }
    let b : StaleBurst := { slot := 4, burst := 7, port := p }
    let s : State := { flushing [7] with staleBursts := [b] }
    (s.due = [] ∧ s.departures = []) ∧ s.staleBursts.find? (fun x => x.slot == 4 && x.burst == 7) = some b ∧
    after (.flushBurstAnswer 4 7 true) s (fun t => t.staleBursts == [] && (t.slots.get 4).state == .flushing) = true := by
  decide +kernel
theorem test_soft_reset_keeps_bursts :
    after (.softReset 0) (turn (flushing [3, 7]) (put 0 0x40 [1])) (fun t =>
      t.staleBursts.map (fun b => (b.slot, b.burst)) == [(4, 3), (4, 7)] &&
      t.flushAccesses.map (·.addr) == [0x020014C0, 0x020015C0] && t.flushAccesses.map (·.data.length) == [16, 16]) = true := by
  decide +kernel
theorem test_flush_ends : after (.flushBurstAnswer 4 7 false) (flushing [7]) (fun t => (t.slots.get 4).state == .free &&
    (t.services.get 1).flushErrors == 1 && t.memoryFault ==
      { valid := true, kind := some .flushError, master := 16, addr := 0x020015C0, window := some 0, lost := false }) = true := by
  decide +kernel
theorem test_claim_served :
    let p : PendingAlloc := { window := 0, frame := 6, slot := 4, writers := [3] }
    let s := ({ flushing [7] with allocs := [p] } : State).setPort 3
      { queue := [first 6], stage := .heldPending { window := 0, role := .uplink, service := 1, frame := 6, offset := 0 } }
    after (.flushBurstAnswer 4 7 true) s (fun t => (t.slots.get 4).state == .filling && (t.slots.get 4).frame == 6 &&
      t.allocs == [] && ((t.slots.get 4).contribs.get 2).next == 16) = true := by decide +kernel
theorem witness_FlushBurstAnswered_waiting :
    let h : WinHit := { window := 0, role := .uplink, service := 1, frame := 6, offset := 0 }
    let s := tunnel.setPort 3 { queue := [first 6], stage := .heldPending h }
    s.front 3 = some (first 6) ∧ s.stage 3 = .heldPending h ∧ segOf 3 = some 2 ∧ (first 6).dir = .write ∧
    (first 6).wellFormed = true ∧ ((s.dropWaiting 3).segments.get 2).lateWrites = 1 ∧
    (s.dropWaiting 3).responses = [{ master := 3, ok := true, data := [] }] := by decide +kernel
theorem witness_ThroughReadServed :
    isTurn (tunnel.setSlot 4 (slot .filling 10 5 3 [2])) (rd 13 0x04301404 2) (fun t h => h.role == .uplink
      && t.slotOf h.window h.frame == some 4 && (t.services.get h.service).through) = true := by decide +kernel
theorem witness_HoldReadWaits :
    isTurn (tunnel.setSlot 3 (slot .filling 0 5 1 [2])) (rd 13 0x04001400 16) (fun t h => h.role == .uplink
      && t.slotOf h.window h.frame == some 3 && !(t.services.get h.service).through) = true ∧
    tunnel.Direct 0 5 := by unfold State.Direct; decide +kernel
theorem test_hold_example : after (.uplinkRead 13) (turn (tunnel.setSlot 3 (slot .filling 0 5 1 [2])) (rd 13 0x04001400 16))
    (fun t => (t.slots.get 3).held == [13] && t.memoryPort == []) = true := by decide +kernel

/-! ## Downlink and programme traffic: the examples of 5.5 and 7.3 -/

/-- The incident of 5.5, with slot 5 holding frame 7 of window 9. -/
def incident (held : Bool) : State :=
  if held then ({ tunnel with latch := true } : State).setSlot 5 (slot .filling 9 7 6 [6]) else { tunnel with latch := true }

/-- Master 3 is barred. -/
def barredThree : State := { incident false with barred := 8 }

theorem witness_DownlinkReadJudged :
    isTurn tunnel (rd 7 0x04102400 16) (fun t h => h.role == .downlink && segOf 7 == some 6 && !t.incident
      && !(t.windows.get 8).translation.1 && !t.inRegion 0x02802400) = true ∧
    isTurn (incident true) (rd 7 0x04102800 16) (fun t h => h.role == .downlink && t.incident
      && (t.services.get h.service).talkthrough && (t.windows.get 9).service == 6 && (t.windows.get 9).role == some .uplink
      && (t.slots.get 5).state == .filling && (t.slots.get 5).frame == 7) = true ∧
    isTurn (incident false) (rd 8 0x04102880 16) (fun t _ => !t.inRegion 0x02901C00
      && t.slotOf 9 7 == none) = true := by decide +kernel
theorem test_normal_read : after (.downlinkRead 7) (turn tunnel (rd 7 0x04102400 16)) (fun t =>
    t.memoryPort.map (fun p => (p.number, p.addr, p.be.length)) == [(7, 0x02802400, 16)]) = true := by decide +kernel
theorem test_underrun : after (.downlinkRead 7) (turn (incident true) (rd 7 0x04102800 16)) (fun t =>
    (t.services.get 2).underruns == 1 && t.responses == [{ master := 7, ok := true, data := List.replicate 16 0 }]) = true := by
  decide +kernel
theorem test_source_read : after (.downlinkRead 8) (turn (incident false) (rd 8 0x04102880 16)) (fun t =>
    t.memoryPort.map (fun p => (p.number, p.addr, p.be.length)) == [(16, 0x02901C80, 16)]) = true := by decide +kernel

/-- A frame record without a cue. -/
def frameAt (f : Nat) : FrameRecord := { frame := f, cue := none, clip := 0, gd := 16384, gi := 0 }

/-- Zone 3 of the example of 7.3, with its current record at a frame, the previous one just before it. -/
def zoneAt (f : Nat) : State :=
  tunnel.setZone 3 { zoneReset with timing := 4, current := some (frameAt f), previous := some (frameAt (f - 1)) }

/-- The current and previous frames of zone 3 and the lag reads of segment 6 after its read of a frame of window 2. -/
def readAt (s : State) (f : Nat) : Option (Option Nat × Option Nat × Nat) :=
  match exec (.programRead 6) (turn s (rd 6 (0x04004000 + BitVec.ofNat 32 (1024 * f)) 1)) with
  | .next t => some ((t.zones.get 3).current.map (·.frame), (t.zones.get 3).previous.map (·.frame), (t.segments.get 5).lagReads)
  | .fault _ => none
  | .refused _ => none

/-- The tunnel with window 1 out of the way of window 2. -/
def clear (s : State) : State := s.setWindow 1 windowReset

theorem test_zone_example : readAt (clear (zoneAt 6)) 6 = some (some 6, some 5, 0) ∧
    readAt (clear (zoneAt 6)) 7 = some (some 7, some 6, 0) ∧ readAt (clear (zoneAt 7)) 6 = some (some 7, some 6, 0) ∧
    readAt (clear (zoneAt 7)) 10 = some (some 10, some 9, 0) := by decide +kernel
theorem test_lag_example : readAt (clear (zoneAt 10)) 7 = some (some 10, some 9, 1) ∧
    readAt (clear (zoneAt 10)) 2 = some (some 10, some 9, 1) ∧ readAt (clear (zoneAt 10)) 1 = some (some 1, some 0, 0) ∧
    readAt (clear tunnel) 3 = some (some 3, none, 0) := by decide +kernel
theorem witness_ProgramReadJudged :
    isTurn tunnel (rd 6 0x04006000 1) (fun t h => h.role == .program && segOf 6 == some 5
      && (t.services.get h.service).breakIn && t.timingWindow 3 == some 2 && (t.zones.get 3).current == none) = true ∧
    isTurn (tunnel.setZone 3 { zoneReset with timing := 5 }) (rd 6 0x04006000 1) (fun t _ => t.timingWindow 3 == none) = true ∧
    isTurn (tunnel.setService 4 { serviceReset with enable := true, program := true }) (rd 6 0x04006000 1)
      (fun t h => !(t.services.get h.service).breakIn) = true ∧
    isTurn (zoneAt 8) (rd 6 0x04006000 1) (fun t _ => (t.zones.get 3).current == some (frameAt 8)) = true ∧
    tunnel.Direct 2 8 := by unfold State.Direct; decide +kernel

/-- Cue 8 waits in zone 3, or plays in it at frame `k`. -/
def cueIn (k : Option Nat) (level : Nat) : State :=
  let e : CueEntry := { cueReset with tag := 9, level := level, zones := 8, clip := 0x03A00000, length := 2, repeats := 1,
                                      gi := 16384, duck := 4096, state := .queued, waiting := 8 }
  match k with
  | none => (zoneAt 6).setCue 8 e
  | some k => ((zoneAt 6).setZone 3 { zoneReset with
      timing := 4, mask := level, current := some (frameAt 6), active := some { cue := 8, k := k } }).setCue 8
        { e with state := .active, waiting := 0 }

theorem witness_ZoneAdvances : (tunnel.zones.get 3).active = none ∧ ((cueIn (some 0) 3).zones.get 3).active.isSome = true ∧
    ((cueIn none 3).cues.get 8).waiting.getLsbD 3 = true ∧ 0 < ((cueIn none 3).cues.get 8).level ∧
    ((cueIn none 3).zones.get 3).stack = [] ∧ ((cueIn none 3).zones.get 3).current = some (frameAt 6) := by decide +kernel
theorem test_cue_starts : (((cueIn none 3).advance 3 16).zones.get 3).active = some { cue := 8, k := 0 } ∧
    (((cueIn none 3).advance 3 16).cues.get 8).state = .active ∧
    ((cueIn none 3).advance 3 16).events.map (fun e => (e.kind, e.object, e.tag, e.reason)) = [(.cueStarted, 8, 9, 3)] ∧
    (((cueIn none 3).advance 3 16).zones.get 3).current =
      some { frame := 7, cue := some 8, clip := 0x03A00000, gd := 4096, gi := 16384 } := by decide +kernel
theorem test_cue_finishes : (((cueIn (some 1) 3).advance 3 16).zones.get 3).active = none ∧
    (((cueIn (some 1) 3).advance 3 16).cues.get 8).state = .idle ∧
    (((cueIn (some 1) 3).advance 3 16).cues.get 8).lastEnd = .completed ∧
    (((cueIn (some 0) 3).advance 3 16).zones.get 3).active = some { cue := 8, k := 1 } := by decide +kernel
theorem test_preempted : ((({ cueIn (some 0) 3 with
      cues := setAt (cueIn (some 0) 3).cues 9 { cueReset with level := 5, waiting := 8, state := .queued } } : State).advance 3
        16).zones.get 3).stack = [{ cue := 8, level := 3, k := 1 }] := by decide +kernel

/-! ## The control region: the example of 9.7 -/

theorem witness_ControlReadHeld :
    (turn listedTwo (rd 0 0x050001A0 8)).Turn 0 (rd 0 0x050001A0 8) .control ∧
    (rd 0 0x050001A0 8).dir = .read ∧ areaOf 0x1A0 = .record (.window 5) 0 ∧ listedTwo.listed (.window 5) = true ∧
    listedTwo.listed (.window 4) = false := ⟨turn_of (by decide +kernel), by decide +kernel⟩
theorem test_read_held : after (.controlRegionRead 0) (turn listedTwo (rd 0 0x050001A0 8)) (fun t =>
    t.stage 0 == .heldRecords [.window 5] && t.memoryPort == []) = true := by decide +kernel

/-- The host's write of the example of 9.7. -/
def entryFive : Access := put 0 0x1A0 [0x11010100, 0x04001234, 0, 0x02000000, 1, 0, 0, 0]

theorem test_normalised_example : after (.controlRegionWrite 0) (turn tunnel entryFive) (fun t =>
    (t.windows.get 5).size == 14 && (t.windows.get 5).base == 0x04000000 && (t.windows.get 5).target == 0x02000000 &&
    !(t.windows.get 5).retiring && t.listed (.window 5) &&
    (t.stage 0).portAccesses.map (·.be) == [[15, 15, 1, 15, 0, 0, 0, 0]]) = true := by decide +kernel
theorem witness_ControlBytesMasked : (put 0 0x100 [3]).be[0]? = some 15 ∧ (put 0 0x100 [3]).data[0]? = some 3 ∧
    tunnel.locked 0x101 = true ∧ tunnel.locked 0x100 = false ∧ tunnel.locked 0x1A1 = false ∧
    (writingBack.writeBack.map (·.dropped)) = some false ∧
    (incident false).protects [] 0x500 = true ∧ (incident false).incidentMaster = 0 ∧
    (63 : Nat) < recordSize (.slot 15) := by decide +kernel
theorem witness_ControlBytesMasked_unowned : ∀ id o, areaOf 0x48 ≠ .record id o := by
  intro id o h
  cases (show Area.request 8 = .record id o from h)
theorem test_ownership_edges : [0x3F, 0x40, 0x47, 0x48, 0x7F, 0x80, 0x109, 0x10C, 0x313, 0x17FF, 0x1800].map hostWritable =
    [false, true, true, true, true, false, false, true, false, false, true] := by decide
/-- For each row of a control-region write, one that is about it. -/
def rowWrites : List (Instr × Access) :=
  [(.controlRegionWrite 0, entryFive), (.windowEnable 0, put 0 0x1A0 [1]), (.windowDisable 0, put 0 0x100 [0]),
   (.serviceEnable 0, put 0 0x300 [1]), (.serviceDisable 0, put 0 0x340 [0]), (.segmentEnable 0, put 0 0x500 [1]),
   (.segmentDisable 0, put 0 0x580 [0]), (.zoneTimingServiceWrite 0, put 0 0x980 [0]), (.cueStart 0, put 0 0xC20 [1]),
   (.cueStop 0, put 0 0xC20 [2]), (.latchSet 0, put 0 0x40 [0x100]), (.latchClear 0, put 0 0x40 [0]),
   (.accessFaultClear 0, put 0 0x40 [0x10000]), (.memoryFaultClear 0, put 0 0x40 [0x1000000]),
   (.eventConsumerIndexWrite 0, put 0 0x44 [5]), (.missLimitWrite 0, put 0 0x44 [5]),
   (.eventEnableMaskWrite 0, put 0 0x44 [5])]

theorem witness_ControlWriteTaken_rows : ∀ x ∈ rowWrites,
    (turn tunnel x.2).Turn 0 x.2 .control ∧ x.2.dir = .write ∧ isAbout x.1 (turn tunnel x.2) x.2 .control = true ∧
    (turn tunnel x.2).writeHeld 0 x.2 = false ∧ ∀ b, carried ((turn tunnel x.2).keptBytes 0 x.2) 0x40 = some b → b = 0 := by
  unfold State.Turn State.NextDue
  decide +kernel
theorem witness_ControlWriteTaken_reset : isAbout (.softReset 0) (turn tunnel (put 0 0x40 [1])) (put 0 0x40 [1]) .control = true ∧
    carried ((turn tunnel (put 0 0x40 [1])).keptBytes 0 (put 0 0x40 [1])) 0x40 = some 1 ∧
    isAbout (.windowDisable 0) (turn tunnel (put 0 0x1A0 [1])) (put 0 0x1A0 [1]) .control = false := by decide +kernel
theorem witness_ControlWriteTaken_held :
    let b : WriteBack := { id := .window 5, hostBytes := [3], bursts := [], left := [0], failed := false, dropped := true }
    let s : State := turn { tunnel with writeBack := some b } entryFive
    s.NextDue (.hand 0) ∧ s.front 0 = some entryFive ∧ s.stage 0 = .taken .control ∧ s.writeHeld 0 entryFive = true ∧
    isAbout (.controlRegionWrite 0) s entryFive .control = true := by unfold State.NextDue; decide +kernel
theorem witness_ControlWriteTaken_barred : barredThree.barred.getLsbD 3 = true ∧
    (tunnel.refusals.get 3) + 1 < 8 ∧
    ((incident false).protectedBytes 3 (put 3 0x504 [1])).map (·.off) = [0x504, 0x505, 0x506, 0x507] ∧
    (∀ y ∈ (incident false).writeBytes (put 3 0x504 [1]), y ∈ (incident false).protectedBytes 3 (put 3 0x504 [1])) := by
  decide +kernel
theorem test_protected : after (.controlRegionWrite 3) (turn (incident false) (put 3 0x504 [1])) (fun t =>
    t.accessFault == { faultReset with valid := true, kind := some .protectedWrite, master := 3, addr := 0x05000504 } && t.protectedWrites == 1 && t.refusals.get 3 == 1 && (t.segments.get 0).downlinkGain == 0 &&
    (t.stage 3).portAccesses.map (·.be) == [[0]]) = true := by decide +kernel
theorem test_eighth_bars : after (.controlRegionWrite 3)
    (turn { incident false with refusals := Vector.replicate 16 7 } (put 3 0x504 [1])) (fun t =>
      t.barred == 8 && t.events.map (·.kind) == [.fault, .masterBarred]) = true := by decide +kernel
theorem witness_CopiesNormalised : (0, 1) ∈ [(0, 1)] ∧ ([3] : List Nat) ≠ [] ∧ (0 : Nat) ≤ 0 := by decide

/-- The bytes that a write leaves unmasked. -/
def kept (s : State) (a : Access) : List WByte := (turn s a).keptBytes a.master a

theorem witness_BytesLaidOut : (63 : Nat) < recordSize (.slot 15) ∧ (0x48 ≤ 0x7F ∧ 0x7F < 0x80) ∧ (0xC0 ≤ 0xFF ∧ 0xFF < 0x100) ∧
    (∃ a, ((cueIn (some 1) 3).zones.get 3).active = some a ∧ a.cue = 8) ∧ (tunnel.zones.get 3).active = none ∧
    recordByte (cueIn (some 1) 3).view (.zone 3) 12 = 1 ∧ recordByte tunnel.view (.zone 3) 5 = 0xFF ∧
    recordByte (cueIn (some 1) 3).view (.cue 8) 18 = 8 := by
  refine ⟨by decide +kernel, by decide, by decide, ⟨_, rfl, rfl⟩, by decide +kernel⟩
theorem test_bytes_of_registers : recordByte filling.view (.slot 4) 6 = 8 ∧ recordByte filling.view (.slot 4) 4 = 5 ∧
    recordByte tunnel.view .status 0 = 0x40 ∧ recordByte tunnel.view .status 1 = 0x26 ∧
    recordByte (tunnel.raiseFault .role 13 0x04000800 (some 0)).view .accessFault 2 = 13 ∧
    recordByte tunnel.view .accessFault 3 = 0xFF := by decide +kernel
/-- R158 (log 37): a write of which ownership masks every byte is taken too: the copies of service 7 are normalised and listed. -/
theorem test_masked_write_normalises : after (.controlRegionWrite 0)
    (turn tunnel (put 0 0x4E0 [0])) (fun t => (t.services.get 7).deadline == 20 &&
      t.listed (.service 7) && (t.stage 0).portAccesses.map (·.be) == [[0]]) = true := by decide +kernel
/-- R150, R149: a barred master's write, and one of protected bytes alone, leave the copies of service 7 as they were. -/
theorem test_refused_write_leaves_copies :
    after (.controlRegionWrite 3) (turn barredThree (put 3 0x4C4 [0])) (fun t => (t.services.get 7).deadline == 0 &&
      t.writeBackList == [] && t.events == [] && (t.stage 3).portAccesses.map (·.be) == [[0]]) = true ∧
    after (.controlRegionWrite 3) (turn (incident false) (put 3 0x4C0 [0x10000])) (fun t =>
      (t.services.get 7).deadline == 0 && !t.listed (.service 7) && t.protectedWrites == 1) = true := by decide +kernel

/-- An enable of window 5, for a service. -/
def enableFive (v : Word) (mapped : Word) : Access := put 0 0x1A0 [0x04000101 + 65536 * v, 0x07000000, mapped, 0x02400000]

theorem witness_WindowEnabled : carried (kept tunnel (enableFive 1 0)) (recordOffset (.window 5)) = some 1 ∧
    (tunnel.windows.get 5).enable = false ∧ (tunnel.windows.get 5).retiring = false ∧ carried [] 0x1A0 = none ∧
    (decodeWindow (tunnel.overlay (kept tunnel (enableFive 1 0)) (.window 5)) (tunnel.windows.get 5)).role = some .uplink ∧
    (tunnel.services.get 1).enable = true ∧ (tunnel.services.get 1).program = false ∧ (tunnel.services.get 0).enable = false ∧
    (tunnel.services.get 4).program = true := by decide +kernel
theorem test_window_enabled : after (.windowEnable 0) (turn tunnel (enableFive 1 0)) (fun t => (t.windows.get 5).enable &&
    (t.windows.get 5).horizon == none && t.listed (.window 5) && t.events == []) = true := by decide +kernel
theorem test_window_refused : after (.windowEnable 0) (turn tunnel (enableFive 0 0)) (fun t => !(t.windows.get 5).enable &&
      t.events.map (fun e => (e.kind, e.object, e.reason)) == [(.windowRefused, 5, 2)]) = true ∧
    after (.windowEnable 0) (turn tunnel (enableFive 4 0)) (fun t => t.events.map (·.reason) == [3]) = true ∧
    after (.windowEnable 0) (turn tunnel (put 0 0x1A0 [0x04010401, 0x07000000, 0, 0])) (fun t =>
      t.events.map (·.reason) == [1]) = true ∧
    after (.windowEnable 0) (turn tunnel (put 0 0x1A0 [0x04010101, 0x07000000, 1, 0x07000010])) (fun t =>
      t.events.map (·.reason) == [5]) = true := by decide +kernel
theorem witness_WindowEnabled_operations : (tunnel.setWindow 5 { windowReset with retiring := true }).windows.get 5 =
      { windowReset with retiring := true } ∧ (tunnel.windows.get 0).enable = true ∧ (tunnel.windows.get 0).retiring = false ∧
    (tunnel.windows.get 5).enable = false := by decide +kernel
theorem witness_WindowsRetire : carried (kept filling (put 0 0x100 [0])) (recordOffset (.window 0)) = some 0 ∧
    (filling.windows.get 0).enable = true ∧ carried (kept filling (put 0 0x340 [0])) (recordOffset (.service 1)) = some 0 ∧
    (filling.services.get 1).enable = true ∧ (filling.windowBusy 0) = true ∧ (tunnel.windowBusy 0) = false ∧
    (tunnel.windows.get 0).retiring = false := by decide +kernel
theorem test_retired_flush : after (.windowDisable 0) (turn filling (put 0 0x100 [0])) (fun t => !(t.windows.get 0).enable &&
    (t.windows.get 0).retiring && (t.slots.get 4).outcome == .retired && (t.segments.get 2).consecutive == 0 &&
    t.memoryPort.length == 17) = true := by decide +kernel
theorem test_service_disabled : after (.serviceDisable 0) (turn tunnel (put 0 0x340 [0])) (fun t =>
    !(t.services.get 1).enable && !(t.windows.get 0).enable && !(t.windows.get 0).retiring && (t.windows.get 1).enable) =
      true := by decide +kernel
theorem witness_TimingWindowsFollow : carried (kept tunnel (put 0 0x300 [1])) (recordOffset (.service 0)) = some 1 ∧
    (tunnel.services.get 0).enable = false ∧ (tunnel.services.get 1).enable = true ∧
    carried (kept tunnel (put 0 0x304 [1])) (recordOffset (.service 0)) = none ∧
    carried (kept tunnel (put 0 0x300 [0])) (recordOffset (.service 0)) = some 0 ∧ tunnel.timingWindow 3 = some 2 := by
  decide +kernel
theorem test_timing_moves : after (.zoneTimingServiceWrite 0) (turn (zoneAt 6) (put 0 0x980 [5])) (fun t =>
    (t.zones.get 3).current == none && (t.zones.get 3).previous == none && (t.zones.get 3).timing == 5) = true := by
  decide +kernel
theorem witness_SegmentSwitched : carried (kept tunnel (put 0 0x500 [1])) (recordOffset (.segment 0)) = some 1 ∧
    carried (kept tunnel (put 0 0x500 [0])) (recordOffset (.segment 0)) = some 0 ∧
    carried (kept tunnel (put 0 0x504 [0])) (recordOffset (.segment 0)) = none ∧
    (tunnel.segments.get 0).state = .offline ∧ (tunnel.segments.get 2).state ≠ .offline := by decide +kernel
theorem test_segment_disabled : after (.segmentDisable 0) (turn tunnel (put 0 0x580 [0])) (fun t =>
    (t.segments.get 2).state == .offline && t.departures == [2]) = true := by decide +kernel

/-! ## Cues, the request block, the incident and supervision -/

/-- A START of cue 1 in zone 3. -/
def startOne (level : Word) : Access := put 0 0xC20 [0x08000001 + 65536 * level]

theorem witness_CueRequested : carried (kept tunnel (startOne 3)) (recordOffset (.cue 1)) = some 1 ∧
    carried (kept tunnel (put 0 0xC20 [0])) (recordOffset (.cue 1)) = some 0 ∧
    carried (kept tunnel (put 0 0xC20 [2])) (recordOffset (.cue 1)) = some 2 ∧
    carried (kept tunnel (put 0 0xC20 [3])) (recordOffset (.cue 1)) = some 3 ∧
    carried (kept tunnel (put 0 0xC24 [3])) (recordOffset (.cue 1)) = none ∧
    ((cueIn (some 0) 3).cues.get 8).state = .active ∧ ((cueIn none 3).cues.get 8).state = .queued ∧
    ((cueIn none 3).cues.get 8).waiting ≠ 0 ∧ (tunnel.cues.get 8).state = .idle ∧
    (cueReset.waiting = 0 ∧ cueReset.state ≠ .active) := by decide +kernel
theorem test_start : after (.cueStart 0) (turn tunnel (startOne 3)) (fun t => (t.cues.get 1).state == .queued &&
      (t.cues.get 1).waiting == 8 && t.events == []) = true ∧
    after (.cueStart 0) (turn tunnel (startOne 7)) (fun t => (t.cues.get 1).state == .idle &&
      (t.cues.get 1).lastEnd == .level && t.events.map (·.kind) == [.cueRefused]) = true ∧
    after (.cueStart 0) (turn (tunnel.setCue 8 { cueReset with state := .queued, waiting := 8 }) (startOne 3)) (fun t =>
      (t.cues.get 1).lastEnd == .tagClash && (t.cues.get 8).state == .idle && (t.cues.get 8).lastEnd == .cancelled) = true := by
  decide +kernel
/-- R159: a START that incident entry makes lists the entry that it refuses only where its last end reason changes. -/
theorem test_auto_start_refused :
    let cue (r : CueReason) : State := tunnel.setCue 1 { cueReset with autoStart := true, lastEnd := r }
    ((cue .noZone).startCue 1 false).listed (.cue 1) = false ∧ ((cue .none).startCue 1 false).listed (.cue 1) = true ∧
    ((cue .none).startCue 1 false).events.map (·.kind) = [.cueRefused] := by decide +kernel
theorem test_stop : after (.cueStop 0) (turn (cueIn (some 0) 3) (put 0 0xD00 [2])) (fun t => (t.cues.get 8).state ==
      .stopping) = true ∧
    after (.cueStop 0) (turn (cueIn none 3) (put 0 0xD00 [2])) (fun t => (t.cues.get 8).state == .idle &&
      (t.cues.get 8).lastEnd == .stopped && t.events.map (·.kind) == [.cueEnd]) = true := by decide +kernel

/-- A write of the second word of the request block: consumer index 5, miss limit 20, mask 1. -/
def requestWord : Access := put 0 0x44 [0x00011405]

theorem test_request_word : after (.missLimitWrite 0) (turn { tunnel with producer := 10 } requestWord) (fun t =>
    t.request.missLimit == 15 && t.consumer == 5 && t.request.eventMask == 1 && t.ringCount == 5) = true := by decide +kernel
theorem test_latch_and_clear : after (.latchSet 0)
    (turn (tunnel.raiseFault .role 13 0 none) (put 0 0x40 [0x00010100])) (fun t => t.incident && !t.accessFault.valid &&
      t.events.map (fun e => (e.kind, e.object, e.reason)) == [(.fault, 13, 3), (.incidentEnter, 0, 2)]) = true := by
  decide +kernel
theorem witness_IncidentChanges : tunnel.latch = false ∧ (incident false).latch = true ∧
    (tunnel.due = [] ∧ tunnel.departures = []) ∧
    tunnel.resetLow = false ∧ State.cold.resetLow = true ∧
    (({ tunnel with qualTimer := some 100000, line := true } : State).qualTimer = some 100000 ∧ 100000 ≤ tunnel.timebase) ∧
    (3 : Fin 16) ≠ (incident false).incidentMaster := by decide +kernel
theorem test_line_qualifies :
    after (.incidentLineChange true) tunnel (fun t => t.qualTimer == some 110000 && !t.incident) = true ∧
    after .qualificationTimerExpiry { tunnel with line := true, qualTimer := some 100000 } (fun t => t.incident && t.latch &&
      t.events.map (fun e => (e.kind, e.object, e.reason)) == [(.incidentEnter, 0, 1)]) = true ∧
    after .qualificationTimerExpiry { tunnel with qualified := true, qualTimer := some 100000 } (fun t => !t.incident &&
      t.events.map (fun e => (e.kind, e.object, e.reason)) == [(.incidentExit, 0, 1)]) = true := by decide +kernel
theorem witness_SegmentsSupervised :
    let s := tunnel.setSegment 2 { seg .active 0 0 with timer := some 100000, consecutive := 4 }
    (s.due = [] ∧ s.departures = []) ∧ (s.segments.get 2).state = .active ∧ (s.segments.get 2).timer = some 100000 ∧
    (2 : Fin 12) ∈ ({ s with handovers := [2] } : State).handovers ∧ s.request.missLimit ≠ 0 ∧
    s.request.missLimit ≤ (s.segments.get 2).consecutive ∧ (tunnel.segments.get 8).state = .stalled ∧
    ¬tunnel.request.missLimit ≤ (tunnel.segments.get 8).consecutive := by decide +kernel
theorem witness_SegmentsSupervised_departure : (2 : Fin 12) ∈ ({ filling with departures := [2] } : State).departures ∧
    (filling.slots.get 4).state ≠ .free ∧ (2 : Fin 12) ∈ (filling.slots.get 4).expected := by decide +kernel
theorem witness_SegmentsSupervised_notices : ({ filling with departures := [2] } : State).departures = [] ++ 2 :: [] ∧
    (2 : Fin 12) ∉ ([] : List (Fin 12)) := by decide +kernel
/-- R65, R100, R101: the stall's notice acts before anything else: the segment's next burst is not expected any more. -/
theorem test_notice_acts_first :
    after (.uplinkWrite 3) (turn { (filling.setSlot 4 (slot .filling 0 5 1 [2, 5])) with departures := [2] } (first 5)) (fun t =>
      (t.segments.get 2).lateWrites == 1 && (t.slots.get 4).expected == [5] && t.departures == []) = true := by decide +kernel
theorem test_departure_completes : after (.departureNotice 2) { filling with departures := [2] } (fun t =>
    t.departures == [] && (t.slots.get 4).state == .flushing && (t.slots.get 4).outcome == .complete) = true := by
  decide +kernel
theorem test_exclusion : after (.segmentExclusionHandover 2)
    { tunnel.setSegment 2 { seg .active 0 0 with consecutive := 4 } with handovers := [2] } (fun t =>
      (t.segments.get 2).state == .excluded && t.departures == [2] && t.events.map (·.kind) == [.segmentExcluded]) = true := by
  decide +kernel
theorem test_stall : after (.activityTimerExpiry 2) (tunnel.setSegment 2 { seg .active 0 0 with timer := some 100000 }) (fun t =>
    (t.segments.get 2).state == .stalled && t.events.map (fun e => (e.kind, e.object)) == [(.segmentStalled, 3)]) = true := by
  decide +kernel

/-! ## Promises of the whole part -/

theorem witness_PromisesKept : tunnel.ListSound ∧ tunnel.BarSound ∧ tunnel.BoundSound ∧ tunnel.WindowSound ∧
    tunnel.SegmentSound ∧ tunnel.GainSound := by
  refine ⟨?_, ?_, ?_, witness_AddressClassified.1, fun g => ?_, ?_, fun z => ?_⟩
  · unfold State.ListSound; decide +kernel
  · unfold State.BarSound; decide +kernel
  · unfold State.BoundSound; decide +kernel
  · revert g; unfold SegmentEntry.Sound; decide +kernel
  · decide +kernel
  · refine ⟨?_, ?_, ?_⟩
    · revert z; decide +kernel
    · revert z
      intro z f h
      exact absurd h (by rw [(by decide +kernel : ∀ z : Fin 8, (tunnel.zones.get z).current = none) z]; nofun)
    · revert z
      intro z f h
      exact absurd h (by rw [(by decide +kernel : ∀ z : Fin 8, (tunnel.zones.get z).previous = none) z]; nofun)
theorem witness_FramesKept : filling.FrameSound ∧ filling.ExpectSound ∧ (filling.slots.get 4).state ≠ .free ∧
    filling.pending = [] := by
  refine ⟨⟨by decide +kernel, fun n p h => ?_, ?_⟩, fun n => ⟨?_, ?_⟩, by decide +kernel⟩
  · exact absurd h (by rw [show filling.allocs = [] from rfl]; simp)
  · rw [show filling.allocs = [] from rfl]; exact .nil
  · revert n; decide +kernel
  · revert n; decide +kernel
theorem witness_CuesKept : (cueIn (some 0) 3).CueSound ∧ (cueIn (some 0) 3).StackSound := by
  refine ⟨⟨by decide +kernel, by decide +kernel⟩, fun z => ⟨?_, ?_, ?_, ?_⟩⟩
  · revert z; decide +kernel
  · revert z; decide +kernel
  · intro a h
    have k : ∀ z : Fin 8, ∀ a ∈ ((cueIn (some 0) 3).zones.get z).active.toList,
        (∀ e ∈ ((cueIn (some 0) 3).zones.get z).stack, e.level < ((cueIn (some 0) 3).cues.get a.cue).level) ∧
          ((cueIn (some 0) 3).zones.get z).mask = ((cueIn (some 0) 3).cues.get a.cue).level := by decide +kernel
    exact k z a (by rw [h]; simp)
  · revert z; decide +kernel

theorem witness_MasterStaysBarred : Instr.latchSet 0 ≠ .hardReset ∧ barredThree.barred.getLsbD 3 = true ∧
    (barredThree.due = [] ∧ barredThree.departures = []) ∧ barredThree.pending = [] ∧
    (2 : Fin 12) ∈ ({ barredThree with departures := [2] } : State).departures ∧
    (turn barredThree (put 0 0x40 [0])).barred.getLsbD 3 = true := by decide +kernel
theorem witness_MasterStaysBarred_own : (turn barredThree (put 0 0x40 [0])).NextDue (.hand 0) ∧
    (turn barredThree (put 0 0x40 [0])).Own (.latchClear 0) (.hand 0) :=
  ⟨by unfold State.NextDue; decide +kernel, rfl, put 0 0x40 [0], .control, by decide +kernel⟩
theorem test_barred_until_exit :
    after .qualificationTimerExpiry barredThree (fun t => t.barred == 8) = true ∧
    after (.latchClear 0) (turn barredThree (put 0 0x40 [0])) (fun t => t.barred == 0) = true := by decide +kernel

end Sys2Proof.Tests
end

section
/-! The promises of Safety.lean kept by every step: each command ends in a state that `Keeps` them, and so does a tick. -/

namespace Sys2Proof.Machine

/-- What a command does of its own keeps the promises, so its outcome does: settling keeps them too. -/
theorem done_keeps {s t u : State} (h : Keeps s u) (e : done u = .next t) : Keeps s t := by
  obtain rfl : u.settle = t := by injection e
  exact h.trans (settle_keeps u)

/-- What a command does once the part has caught up keeps the promises, so its outcome does. -/
theorem done_catchUp_keeps {s t u : State} (h : Keeps s.catchUp u) (e : done u = .next t) : Keeps s t :=
  done_keeps ((catchUp_keeps s).trans h) e

/-- A control-region write keeps the promises, whatever the row asks of it. -/
theorem asControl_write_keeps (s : State) (m : Fin 16) (p : State → Access → Bool) :
    Keeps s (s.asControl m .write p fun s a => s.treatControlWrite m a) :=
  asControl_keeps s m .write p _ fun s a => (treatControlWrite_calm s m a).keeps

/-- Taking a segment's departure notice keeps the promises, with the notices before it (log 44). -/
theorem execDepartureNotice_keeps (g : Fin 12) (s t : State) (e : execDepartureNotice g s = .next t) : Keeps s t :=
  done_keeps (Keeps.ite ((takeDepartures_calm _ s).trans (takeDeparture_calm _ g)).keeps (catchUp_keeps s)) e

theorem execMapFetchComplete_keeps (ok : Bool) (entry : Word) (s t : State)
    (e : execMapFetchComplete ok entry s = .next t) : Keeps s t := by
  refine done_catchUp_keeps ?_ e
  split
  · exact Keeps.refl _
  · exact (completeFetch_quiet _ _ _ _).keeps

theorem execImageWriteOutBurstAnswer_keeps (k : Fin 80) (ok : Bool) (s t : State)
    (e : execImageWriteOutBurstAnswer k ok s = .next t) : Keeps s t := by
  refine done_catchUp_keeps ?_ e
  split
  · exact Keeps.refl _
  · exact Keeps.ite (answerWriteOut_keeps _ _ _ _) (Keeps.refl _)

theorem execWriteBackBurstAnswer_keeps (k : Fin 2) (ok : Bool) (s t : State)
    (e : execWriteBackBurstAnswer k ok s = .next t) : Keeps s t := by
  refine done_catchUp_keeps ?_ e
  split
  · exact Keeps.refl _
  · exact Keeps.ite (answerWriteBack_keeps _ _ _ _) (Keeps.refl _)

/-- An activity timer that has expired belongs to a segment that is not OFFLINE, so its stall keeps the promises (R99). -/
theorem execActivityTimerExpiry_keeps (g : Fin 12) (s t : State) (e : execActivityTimerExpiry g s = .next t) :
    Keeps s t := by
  refine done_catchUp_keeps ?_ e
  split
  · next h =>
    have active := beq_iff_eq.mp (Bool.and_eq_true_iff.mp h).1
    exact (stall_calm _ g (by rw [active]; exact nofun)).keeps
  · exact Keeps.refl _

theorem execAccessRequest_keeps (a : Access) (s t : State) (e : execAccessRequest a s = .next t) : Keeps s t := by
  unfold execAccessRequest at e
  split at e
  · exact done_catchUp_keeps (present_keeps _ a) e
  · cases e

/-- Every command keeps the promises. -/
theorem exec_keeps (c : Instr) (s t : State) (e : exec c s = .next t) : Keeps s t := by
  cases c with
  | hardReset => exact done_keeps (hardReset_keeps s) e
  | resetRelease => exact done_catchUp_keeps (release_keeps _ _ _ _) e
  | accessRequest a => exact execAccessRequest_keeps a s t e
  | accessTakenForService m => exact done_keeps (catchUpTo_keeps _ (ownTaking_keeps m) s) e
  | unwindowedAccess m =>
    exact done_keeps (asUnwindowed_keeps s m _ fun s a => (passUnchanged_quiet s m a).keeps) e
  | uplinkWrite m => exact done_keeps (asWindow_keeps s m _ _ _ fun s a h => (treatUplinkWrite_quiet s m a h).keeps) e
  | uplinkRead m => exact done_keeps (asWindow_keeps s m _ _ _ fun s a h => (treatUplinkRead_quiet s m a h).keeps) e
  | downlinkWrite m => exact done_keeps (asWindow_keeps s m _ _ _ fun s a h => (treatDownlinkWrite_quiet s m a h).keeps) e
  | downlinkRead m => exact done_keeps (asWindow_keeps s m _ _ _ fun s a h => (treatDownlinkRead_quiet s m a h).keeps) e
  | programWrite m => exact done_keeps (asWindow_keeps s m _ _ _ fun s a h => (treatProgramWrite_quiet s m a h).keeps) e
  | programRead m => exact done_keeps (asWindow_keeps s m _ _ _ fun s a h => (treatProgramRead_quiet s m a h).keeps) e
  | controlRegionRead m =>
    exact done_keeps (asControl_keeps s m _ _ _ fun s a => (treatControlRead_quiet s m a).keeps) e
  | controlRegionWrite m | windowEnable m | windowDisable m | serviceEnable m | serviceDisable m | segmentEnable m
  | segmentDisable m | zoneTimingServiceWrite m | cueStart m | cueStop m | latchSet m | latchClear m | accessFaultClear m
  | memoryFaultClear m | eventConsumerIndexWrite m | missLimitWrite m | eventEnableMaskWrite m | softReset m =>
    exact done_keeps (asControl_write_keeps s m _) e
  | memoryAccessAnswer m r =>
    exact done_catchUp_keeps (withIssued_quiet _ m r _ fun a i => answerAccess_quiet _ m a i r).keeps e
  | clipReadAnswer m r =>
    exact done_catchUp_keeps (withIssued_quiet _ m r _ fun a i => answerClip_quiet _ m a i r).keeps e
  | talkthroughSourceAnswer m r =>
    exact done_catchUp_keeps (withIssued_quiet _ m r _ fun a i => answerSource_quiet _ m a i r).keeps e
  | deadlineExpiry n => exact done_catchUp_keeps (Keeps.ite (startFlush_quiet _ n _).keeps (Keeps.refl _)) e
  | flushBurstAnswer n k ok => exact done_catchUp_keeps (answerBurst_keeps _ n k ok) e
  | translationQueueJoin => exact done_catchUp_keeps (joinFromWait_quiet _).keeps e
  | mapFetchIssue => exact done_catchUp_keeps (issueFetch_quiet _).keeps e
  | mapFetchComplete ok entry => exact execMapFetchComplete_keeps ok entry s t e
  | activityTimerExpiry g => exact execActivityTimerExpiry_keeps g s t e
  | segmentExclusionHandover g => exact done_catchUp_keeps (takeHandover_calm _ g).keeps e
  | departureNotice g => exact execDepartureNotice_keeps g s t e
  | incidentLineChange high => exact done_catchUp_keeps (changeLine_keeps _ high) e
  | qualificationTimerExpiry => exact done_catchUp_keeps (Keeps.ite (qualify_keeps _) (Keeps.refl _)) e
  | imageWriteOutBurstAnswer k ok => exact execImageWriteOutBurstAnswer_keeps k ok s t e
  | writeBackStart => exact done_catchUp_keeps (startWriteBack_keeps _) e
  | writeBackBurstAnswer k ok => exact execWriteBackBurstAnswer_keeps k ok s t e
  | eventWriteIssue => exact done_catchUp_keeps (issueEvent_keeps _) e
  | eventWriteAnswer ok => exact done_catchUp_keeps (answerEvent_keeps _ ok) e

theorem timebase_keeps (s : State) (n : Nat) : Keeps s { s with timebase := n } := by
  apply keeps_of_same <;> rfl

theorem tick_keeps (s : State) : Keeps s s.tick := by
  have before : Keeps s s.catchUp.settle := (catchUp_keeps s).trans (settle_keeps _)
  unfold State.tick
  generalize s.catchUp.settle = u at before
  exact Keeps.ite before (before.trans (timebase_keeps u _))

/-- Settles O56: a step is a tick or a command taken off the queue, of which no promise speaks, and both keep them all. -/
theorem promisesKept : Obligations.PromisesKept := by
  intro s t e
  unfold step at e
  split at e
  · obtain rfl : s.tick = t := by injection e
    have k := tick_keeps s
    exact ⟨k.list, k.bar, k.bound, k.windows, k.segments, k.gains⟩
  · have k := exec_keeps _ _ _ e
    exact ⟨k.list, k.bar, k.bound, k.windows, k.segments, k.gains⟩

end Sys2Proof.Machine
end

section
/-! The arithmetic of chapter 1: lanes and their words, scaling, the clamp and the mix (R1, R5, R6, R12), the noise gate
(R10), the duck ramp (R13) and the accumulators (R7). -/

namespace Sys2Proof.Machine

/-! ## Lanes, scaling, the clamp and the mix -/

theorem laneLo_range (w : Word) : -32768 ≤ laneLo w ∧ laneLo w ≤ 32767 := by
  have lower := (w.extractLsb' 0 16).le_toInt
  have upper := (w.extractLsb' 0 16).toInt_lt
  unfold laneLo
  omega

theorem laneHi_range (w : Word) : -32768 ≤ laneHi w ∧ laneHi w ≤ 32767 := by
  have lower := (w.extractLsb' 16 16).le_toInt
  have upper := (w.extractLsb' 16 16).toInt_lt
  unfold laneHi
  omega

/-- A word is made of its own lanes (R1). -/
theorem wordOf_lanes (w : Word) : wordOf (laneLo w) (laneHi w) = w := by
  unfold wordOf laneLo laneHi
  rw [BitVec.ofInt_toInt, BitVec.ofInt_toInt]
  ext i h
  rw [BitVec.getElem_append]
  split
  · simp [BitVec.getLsbD_eq_getElem (by omega : i < 32)]
  · next big =>
    have back : 16 + (i - 16) = i := by omega
    simp [back, BitVec.getLsbD_eq_getElem (by omega : i < 32)]

theorem clampLane_eq_ite (x : Int) :
    clampLane x = if x < -32768 then -32768 else if 32767 < x then 32767 else x := by
  unfold clampLane
  split
  · omega
  · split <;> omega

theorem clampLane_range (x : Int) : -32768 ≤ clampLane x ∧ clampLane x ≤ 32767 := by
  unfold clampLane
  omega

theorem clampLane_of_range {x : Int} (h : -32768 ≤ x ∧ x ≤ 32767) : clampLane x = x := by
  unfold clampLane
  omega

theorem saturates_iff (x : Int) : saturates x = true ↔ clampLane x ≠ x := bne_iff_ne

/-- The exact product of a lane and a gain code, which fits 32 bits with its sign (R5). -/
theorem laneProduct_range {s : Int} {g : Nat} (lower : -32768 ≤ s) (upper : s ≤ 32767) (gain : g ≤ 65535) :
    -2147450880 ≤ s * g ∧ s * g ≤ 2147385345 := by
  have nonneg : (0 : Int) ≤ g := Int.natCast_nonneg g
  have below : -32768 * (g : Int) ≤ s * g := Int.mul_le_mul_of_nonneg_right lower nonneg
  have above : s * (g : Int) ≤ 32767 * g := Int.mul_le_mul_of_nonneg_right upper nonneg
  omega

/-- The scaled lane is the integer nearest to s × g / 16384, and the upper one of two (R5). -/
theorem scale_nearest (s : Int) (g : Nat) :
    2 * (s * g) - 16384 < 2 * (16384 * scale s g) ∧ 2 * (16384 * scale s g) ≤ 2 * (s * g) + 16384 := by
  unfold scale
  omega

@[simp] theorem scale_unity (s : Int) : scale s 16384 = s := by
  unfold scale
  omega

@[simp] theorem scale_zero_gain (s : Int) : scale s 0 = 0 := by simp [scale]

@[simp] theorem scale_zero_lane (g : Nat) : scale 0 g = 0 := by simp [scale]

theorem scale_range {s : Int} {g : Nat} (lower : -32768 ≤ s) (upper : s ≤ 32767) (gain : g ≤ 65535) :
    -131070 ≤ scale s g ∧ scale s g ≤ 131066 := by
  have product := laneProduct_range lower upper gain
  unfold scale
  omega

/-- With no clip term and unity programme gain a lane of the mix is the programme's (R12). -/
theorem mixLane_program {p : Int} (h : -32768 ≤ p ∧ p ≤ 32767) (gi : Nat) : mixLane p 0 16384 gi = p := by
  have sum : p * (16384 : Nat) + 0 * (gi : Int) = p * (16384 : Nat) := by rw [Int.zero_mul, Int.add_zero]
  unfold mixLane
  rw [sum]
  exact (congrArg clampLane (scale_unity p)).trans (clampLane_of_range h)

/-- With no programme term and unity insertion gain a lane of the mix is the clip's (R12). -/
theorem mixLane_clip (p : Int) {c : Int} (h : -32768 ≤ c ∧ c ≤ 32767) : mixLane p c 0 16384 = c := by
  have sum : p * (0 : Nat) + c * (16384 : Nat) = c * (16384 : Nat) := by simp
  unfold mixLane
  rw [sum]
  exact (congrArg clampLane (scale_unity c)).trans (clampLane_of_range h)

theorem mixWord_program (p : Word) (gi : Nat) : mixWord p 0 16384 gi = p := by
  have lo : laneLo 0 = 0 := by decide
  have hi : laneHi 0 = 0 := by decide
  unfold mixWord
  rw [lo, hi, mixLane_program (laneLo_range p), mixLane_program (laneHi_range p), wordOf_lanes]

theorem mixWord_clip (p c : Word) : mixWord p c 0 16384 = c := by
  unfold mixWord
  rw [mixLane_clip _ (laneLo_range c), mixLane_clip _ (laneHi_range c), wordOf_lanes]

/-- Settles O8: the range of the product gives that of the scaled lane, and both mix identities come from scaling by
unity. -/
theorem scaleRounds : Obligations.ScaleRounds := by
  refine ⟨fun s g lower upper gain => ?_, fun _ _ _ => rfl, fun _ _ => rfl, fun _ _ _ _ => rfl,
    fun p c _ gi => ⟨rfl, mixWord_program p gi, mixWord_clip p c⟩, fun _ _ _ _ => clampLane_range _,
    fun x => ⟨clampLane_eq_ite x, saturates_iff x⟩⟩
  have product := laneProduct_range lower upper gain
  exact ⟨rfl, product, by omega, scale_nearest s g, scale_range lower upper gain, scale_unity s, scale_zero_gain s,
    scale_zero_lane g⟩

/-! ## The noise gate -/

theorem gate_opens (g : Gate) {p openT : Nat} (closeT h : Nat) (high : openT ≤ p) :
    g.update p openT closeT h = { isOpen := true, hold := h } := if_pos high

/-- Between the thresholds an OPEN gate starts its hold afresh and a CLOSED one stays (R10). -/
theorem gate_between (g : Gate) {p openT closeT : Nat} (h : Nat) (low : closeT ≤ p) (high : p < openT) :
    g.update p openT closeT h = if g.isOpen then { isOpen := true, hold := h } else g := by
  unfold Gate.update
  rw [if_neg (Nat.not_le.mpr high), if_pos low]

/-- Below the close threshold the hold counter of an OPEN gate falls, and at 0 the gate closes (R10). -/
theorem gate_below (g : Gate) {p openT closeT : Nat} (h : Nat) (order : closeT ≤ openT) (low : p < closeT) :
    g.update p openT closeT h =
      if g.isOpen then { isOpen := decide (0 < g.hold), hold := g.hold - 1 } else g := by
  unfold Gate.update
  rw [if_neg (Nat.not_le.mpr (low.trans_le order)), if_neg (Nat.not_le.mpr low)]
  split
  · split
    · next positive => rw [decide_eq_true positive]
    · next zero => rw [Nat.eq_zero_of_not_pos zero]; rfl
  · rfl

/-- A CLOSED gate stays as it is through updates below the close threshold (R10). -/
theorem gate_stays_closed {openT closeT : Nat} (h : Nat) (order : closeT ≤ openT) :
    ∀ (ps : List Nat) (g : Gate), (∀ x ∈ ps, x < closeT) → g.isOpen = false →
      ps.foldl (fun g x => g.update x openT closeT h) g = g
  | [], _, _, _ => rfl
  | p :: ps, g, low, closed => by
    have still : g.update p openT closeT h = g := by
      rw [gate_below g h order (low p List.mem_cons_self), closed]
      rfl
    rw [List.foldl_cons, still]
    exact gate_stays_closed h order ps g (fun x hx => low x (List.mem_cons_of_mem p hx)) closed

/-- An OPEN gate with hold counter H is CLOSED after updates below the close threshold just if there are H + 1 of them
(R10). -/
theorem gate_closes_iff {openT closeT : Nat} (h : Nat) (order : closeT ≤ openT) :
    ∀ (ps : List Nat) (g : Gate), (∀ x ∈ ps, x < closeT) → g.isOpen = true →
      ((ps.foldl (fun g x => g.update x openT closeT h) g).isOpen = false ↔ g.hold + 1 ≤ ps.length)
  | [], g, _, isOpen => by simp [isOpen]
  | p :: ps, g, low, isOpen => by
    have rest : ∀ x ∈ ps, x < closeT := fun x hx => low x (List.mem_cons_of_mem p hx)
    rw [List.foldl_cons, gate_below g h order (low p List.mem_cons_self), if_pos isOpen, List.length_cons]
    rcases Nat.eq_zero_or_pos g.hold with zero | positive
    · rw [gate_stays_closed h order ps _ rest (by simp [zero])]
      simp [zero]
    · rw [gate_closes_iff h order ps _ rest (by simpa using positive)]
      simp only
      omega

/-- Settles O9: the rows of R10's table, and closing by induction on the updates. -/
theorem gateHysteresis : Obligations.GateHysteresis := by
  intro g p openT closeT h order
  refine ⟨gate_opens g closeT h, fun low high => gate_between g h low high, fun low positive => ?_, fun low zero => ?_,
    fun ps low isOpen => gate_closes_iff h order ps g low isOpen⟩
  · rw [gate_below g h order low, decide_eq_true positive]
  · rw [gate_below g h order low]
    obtain ⟨isOpen, hold⟩ := g
    cases zero
    cases isOpen <;> rfl

/-! ## The duck ramp -/

theorem rampStep_above {target gd : Nat} (step : Nat) (h : target ≤ gd) : target ≤ rampStep target gd step := by
  unfold rampStep
  split
  · omega
  · split <;> omega

theorem rampStep_below {target gd : Nat} (step : Nat) (h : gd ≤ target) : rampStep target gd step ≤ target := by
  unfold rampStep
  split
  · omega
  · split <;> omega

/-- A ramp step brings the gain nearer by its size, or to the target (R13). -/
theorem rampStep_nearer (target gd step : Nat) :
    rampStep target gd step - target = gd - target - step ∧ target - rampStep target gd step = target - gd - step := by
  unfold rampStep
  split
  · omega
  · split <;> omega

/-- Steps that cover the distance reach the target (R13). -/
theorem rampStep_reaches (target step : Nat) : ∀ (n gd : Nat), gd ≤ target + n * step → target ≤ gd + n * step →
    (fun g => rampStep target g step)^[n] gd = target
  | 0, gd, above, below => by
    rw [Nat.zero_mul, Nat.add_zero] at above below
    exact Nat.le_antisymm above below
  | n + 1, gd, above, below => by
    have nearer := rampStep_nearer target gd step
    rw [Nat.succ_mul] at above below
    rw [Function.iterate_succ_apply]
    exact rampStep_reaches target step n _ (by omega) (by omega)

/-- Settles O10: each step nears the target by its size without passing it, so the steps that cover the distance reach
it. -/
theorem rampReachesTarget : Obligations.RampReachesTarget := fun target gd step inRange gdInRange =>
  ⟨rfl, rampStep_le target gd step inRange gdInRange, rampStep_above step, rampStep_below step,
    fun n => rampStep_reaches target step n gd⟩

/-! ## The accumulators -/

/-- The word that a burst from offset `o` brings to offset `k`, if it brings one. -/
def burstWord (o : Nat) (xs : List Lanes) (k : Nat) : Option Lanes := if o ≤ k then xs[k - o]? else none

/-- What a burst from offset `o` makes of the accumulators at offset `k` (R7). -/
def burstTerm (o g : Nat) (xs : List Lanes) (k : Nat) (a : Lanes) : Lanes :=
  match burstWord o xs k with
  | some x => a.addScaled x g
  | none => a

theorem burstWord_cons (o : Nat) (x : Lanes) (xs : List Lanes) (k : Nat) :
    burstWord o (x :: xs) k = if o = k then some x else burstWord (o + 1) xs k := by
  unfold burstWord
  rcases Nat.lt_trichotomy k o with before | rfl | after
  · rw [if_neg (by omega), if_neg (by omega), if_neg (by omega)]
  · simp
  · have shift : k - o = k - (o + 1) + 1 := by omega
    rw [if_pos (by omega), if_neg (by omega), if_pos (by omega), shift, List.getElem?_cons_succ]

theorem burstTerm_cons (o g : Nat) (x : Lanes) (xs : List Lanes) (k : Nat) (a : Lanes) :
    burstTerm o g (x :: xs) k a = burstTerm (o + 1) g xs k (if o = k then a.addScaled x g else a) := by
  unfold burstTerm
  rw [burstWord_cons]
  by_cases here : o = k
  · have past : burstWord (o + 1) xs k = none := if_neg (by omega)
    rw [if_pos here, if_pos here, past]
  · rw [if_neg here, if_neg here]

/-- A burst adds its words at their offsets and nothing elsewhere (R7). -/
theorem addBurst_getElem? (g k : Nat) : ∀ (xs : List Lanes) (acc : List Lanes) (o : Nat),
    (addBurst acc o g xs)[k]? = (acc[k]?).map (burstTerm o g xs k)
  | [], acc, o => by
    have nothing : burstTerm o g [] k = id := by
      funext a
      simp [burstTerm, burstWord]
    rw [nothing, Option.map_id]
    rfl
  | x :: xs, acc, o => by
    unfold addBurst
    rw [addBurst_getElem? g k xs, List.getElem?_modify, funext (burstTerm_cons o g x xs k)]
    cases acc[k]? with
    | none => rfl
    | some a => by_cases here : o = k <;> simp [here]

theorem addScaled_comm (a x y : Lanes) (g g' : Nat) :
    (a.addScaled x g).addScaled y g' = (a.addScaled y g').addScaled x g := by
  unfold Lanes.addScaled
  congr 1 <;> exact Int.add_right_comm _ _ _

theorem burstTerm_comm (o o' g g' : Nat) (xs ys : List Lanes) (k : Nat) (a : Lanes) :
    burstTerm o' g' ys k (burstTerm o g xs k a) = burstTerm o g xs k (burstTerm o' g' ys k a) := by
  unfold burstTerm
  cases burstWord o xs k with
  | none => rfl
  | some x => cases burstWord o' ys k with
    | none => rfl
    | some y => exact addScaled_comm a x y g g'

/-- The order of two bursts makes no difference (R7). -/
theorem addBurst_comm (acc : List Lanes) (o o' g g' : Nat) (xs ys : List Lanes) :
    addBurst (addBurst acc o g xs) o' g' ys = addBurst (addBurst acc o' g' ys) o g xs := by
  apply List.ext_getElem?
  intro k
  rw [addBurst_getElem?, addBurst_getElem?, addBurst_getElem?, addBurst_getElem?, Option.map_map, Option.map_map]
  exact congrArg (Option.map · acc[k]?) (funext fun a => burstTerm_comm o o' g g' xs ys k a)

/-- A burst in two parts adds what it adds whole (R7). -/
theorem addBurst_append (g : Nat) (ys : List Lanes) : ∀ (xs : List Lanes) (acc : List Lanes) (o : Nat),
    addBurst acc o g (xs ++ ys) = addBurst (addBurst acc o g xs) (o + xs.length) g ys
  | [], _, _ => rfl
  | x :: xs, acc, o => by
    rw [List.cons_append, addBurst, addBurst, addBurst_append g ys xs, List.length_cons, Nat.succ_add_eq_add_succ]

/-- Settles O11: read the accumulators offset by offset, where each burst adds one term or none. -/
theorem combineOrderFree : Obligations.CombineOrderFree := by
  intro acc o o' g g' xs ys
  refine ⟨addBurst_comm acc o o' g g' xs ys, addBurst_append g ys xs acc o, fun k a x held since word => ?_,
    fun k outside => ?_⟩
  · have brought : burstWord o xs k = some x := (if_pos since).trans word
    rw [addBurst_getElem?, held, Option.map_some, burstTerm, brought]
    rfl
  · have brought : burstWord o xs k = none := by
      unfold burstWord
      split
      · exact List.getElem?_eq_none (by omega)
      · rfl
    have still : burstTerm o g xs k = id := by
      funext a
      rw [burstTerm, brought]
      rfl
    rw [addBurst_getElem?, still, Option.map_id]
    rfl

end Sys2Proof.Machine
end

section
/-! Classification (R18, R2, R153): an address modulo 2^32 against the range of the control region and of a window, and the
lowest-numbered window that covers it. -/

namespace Sys2Proof.Machine

/-- The difference of two addresses measures a range that does not wrap. -/
theorem addr_sub_lt_iff (a b : Addr) (n : Nat) (fits : b.toNat + n ≤ 2 ^ 32) :
    (a - b).toNat < n ↔ b.toNat ≤ a.toNat ∧ a.toNat < b.toNat + n := by
  have ha := a.isLt
  have hb := b.isLt
  rw [BitVec.toNat_sub]
  omega

theorem State.regionBase_toNat (s : State) : s.regionBase.toNat = s.baseStraps.toNat * 2 ^ 24 := by
  unfold State.regionBase
  rw [BitVec.toNat_append]
  simp [Nat.shiftLeft_eq]

/-- The 16384 bytes of the control region from the base straps times 16 MiB on (R153). -/
theorem State.inRegion_iff (s : State) (a : Addr) : s.inRegion a = true ↔
    s.baseStraps.toNat * 2 ^ 24 ≤ a.toNat ∧ a.toNat < s.baseStraps.toNat * 2 ^ 24 + 16384 := by
  have straps := s.baseStraps.isLt
  have fits : s.regionBase.toNat + 16384 ≤ 2 ^ 32 := by rw [s.regionBase_toNat]; omega
  rw [← s.regionBase_toNat, ← addr_sub_lt_iff a s.regionBase 16384 fits]
  exact decide_eq_true_iff

/-- A sound window lies below 2^32 and begins at a multiple of 1024 (R28, R158). -/
theorem WindowEntry.Sound.range {e : WindowEntry} (h : e.Sound) :
    e.base.toNat + 1024 * 2 ^ e.size ≤ 2 ^ 32 ∧ e.base.toNat % 1024 = 0 := by
  obtain ⟨-, size, aligned⟩ := h
  have whole : 1024 * 2 ^ e.size * 2 ^ (22 - e.size) = 2 ^ 32 := by
    rw [Nat.mul_assoc, ← Nat.pow_add, Nat.add_sub_cancel' (by omega)]
    norm_num
  obtain ⟨k, hk⟩ := Nat.dvd_of_mod_eq_zero aligned
  have below : 1024 * 2 ^ e.size * k < 1024 * 2 ^ e.size * 2 ^ (22 - e.size) := by
    rw [whole, ← hk]
    exact e.base.isLt
  have next : k + 1 ≤ 2 ^ (22 - e.size) := Nat.lt_of_mul_lt_mul_left below
  constructor
  · calc e.base.toNat + 1024 * 2 ^ e.size = 1024 * 2 ^ e.size * (k + 1) := by rw [hk, Nat.mul_succ]
      _ ≤ 1024 * 2 ^ e.size * 2 ^ (22 - e.size) := Nat.mul_le_mul_left _ next
      _ = 2 ^ 32 := whole
  · rw [hk, Nat.mul_assoc]
    exact Nat.mul_mod_right _ _

/-- What it is for a sound window to cover an address, in plain numbers (R2, R18). -/
theorem WindowEntry.Sound.covers_iff {e : WindowEntry} (h : e.Sound) (a : Addr) : e.covers a = true ↔
    e.enable = true ∧ e.base.toNat ≤ a.toNat ∧ a.toNat < e.base.toNat + 1024 * 2 ^ e.size := by
  rw [← addr_sub_lt_iff a e.base _ h.range.1]
  exact Bool.and_eq_true_iff.trans (and_congr_right' decide_eq_true_iff)

/-- The least place of a table that a condition finds. -/
theorem find?_finRange_eq_some_iff {n : Nat} (p : Fin n → Bool) (i : Fin n) :
    (List.finRange n).find? p = some i ↔ p i = true ∧ ∀ j, j < i → ¬p j = true := by
  rw [List.find?_eq_some_iff_getElem]
  constructor
  · rintro ⟨found, k, hk, rfl, before⟩
    refine ⟨found, fun j hj => ?_⟩
    have below : j.val < k := by simpa [Fin.lt_def] using hj
    simpa using before j.val below
  · rintro ⟨found, before⟩
    refine ⟨found, i.val, by simp, by simp, fun j hj => ?_⟩
    simpa using before ⟨j, hj.trans i.isLt⟩ hj

theorem State.windowAt_eq_some_iff (s : State) (a : Addr) (w : Fin 16) : s.windowAt a = some w ↔
    (s.windows.get w).covers a = true ∧ ∀ x, x < w → ¬(s.windows.get x).covers a = true :=
  find?_finRange_eq_some_iff _ w

theorem State.windowAt_eq_none_iff (s : State) (a : Addr) :
    s.windowAt a = none ↔ ∀ w, ¬(s.windows.get w).covers a = true := by
  unfold State.windowAt
  rw [List.find?_eq_none]
  exact ⟨fun h w => h w (List.mem_finRange w), fun h w _ => h w⟩

theorem State.classify_control_iff (s : State) (a : Addr) : s.classify a = .control ↔ s.inRegion a = true := by
  unfold State.classify
  split
  · next h => simp [h]
  · next h =>
    refine ⟨fun e => ?_, fun k => absurd k h⟩
    split at e
    · cases e
    · split at e <;> cases e

theorem State.classify_window_iff (s : State) (a : Addr) (hit : WinHit) : s.classify a = .window hit ↔
    ¬s.inRegion a = true ∧ ∃ w r, s.windowAt a = some w ∧ (s.windows.get w).role = some r ∧
      (s.windows.get w).hitAt w r a = hit := by
  unfold State.classify
  split
  · next h => simp [h]
  · next h =>
    cases hw : s.windowAt a with
    | none => simp
    | some w => cases hr : (s.windows.get w).role with
      | none => simp [hr]
      | some r => simp [h, hr]

/-- An address outside the control region is unwindowed just if no window covers it, where every enabled window has a
role (R18). -/
theorem State.classify_unwindowed_iff (s : State) (a : Addr)
    (roles : ∀ w, (s.windows.get w).enable = true → (s.windows.get w).role ≠ none) :
    s.classify a = .unwindowed ↔ ¬s.inRegion a = true ∧ s.windowAt a = none := by
  unfold State.classify
  split
  · next h => simp [h]
  · next h =>
    cases hw : s.windowAt a with
    | none => simp [h]
    | some w =>
      have covered := ((s.windowAt_eq_some_iff a w).mp hw).1
      have enabled := (Bool.and_eq_true_iff.mp covered).1
      cases hr : (s.windows.get w).role with
      | none => exact absurd hr (roles w enabled)
      | some r => simp [hr]

/-- Frame index and word offset of an address in a sound window that covers it (R2). -/
theorem WindowEntry.Sound.hitAt_place {e : WindowEntry} (h : e.Sound) (w : Fin 16) (r : Role) (a : Addr)
    (covered : e.covers a = true) :
    (e.hitAt w r a).offset < 256 ∧ (e.hitAt w r a).frame < 2 ^ e.size ∧
      a.toNat = e.base.toNat + 1024 * (e.hitAt w r a).frame + 4 * (e.hitAt w r a).offset + a.toNat % 4 := by
  obtain ⟨-, above, below⟩ := (h.covers_iff a).mp covered
  obtain ⟨fits, aligned⟩ := h.range
  have distance : (a - e.base).toNat = a.toNat - e.base.toNat := by
    have := a.isLt
    rw [BitVec.toNat_sub]
    omega
  unfold WindowEntry.hitAt
  simp only [distance]
  refine ⟨by omega, ?_, by omega⟩
  exact Nat.div_lt_of_lt_mul (by omega)

/-- Settles O23: `classify` tries the region, then the windows in ascending number; soundness puts both ranges in plain
numbers. -/
theorem addressClassified : Obligations.AddressClassified := by
  intro s a sound inRegion covers
  have region : s.inRegion a = true ↔ inRegion := s.inRegion_iff a
  have window (w : Fin 16) : (s.windows.get w).covers a = true ↔ covers w := (sound w).covers_iff a
  refine ⟨(s.classify_control_iff a).trans region, fun roles => ?_, fun hit classified => ?_⟩
  · rw [s.classify_unwindowed_iff a roles, region, s.windowAt_eq_none_iff a]
    exact and_congr_right' (forall_congr' fun w => not_congr (window w))
  · obtain ⟨outside, w, r, found, role, rfl⟩ := (s.classify_window_iff a hit).mp classified
    obtain ⟨covered, lowest⟩ := (s.windowAt_eq_some_iff a w).mp found
    exact ⟨fun k => outside (region.mpr k), (window w).mp covered, fun x hx k => lowest x hx ((window x).mpr k), role, rfl,
      (sound w).hitAt_place w r a covered⟩

end Sys2Proof.Machine
end

section
/-! The memory's answers to the accesses issued on a master's behalf (R17, R84, R88, R135): what a command of an answer
comes to at rest, and the answer by the treatment of the access. -/

namespace Sys2Proof.Machine

/-- An answer that fits the access a master has at the memory port is taken for it. -/
theorem withIssued_of_atMemory {s : State} {m : Fin 16} {a : Access} {i : Issue} {r : Answer} (at_ : s.AtMemory m a i)
    (fits : answerFits a r = true) (f : Access → Issue → State) : s.withIssued m r f = f a i := by
  obtain ⟨-, front, stage⟩ := at_
  unfold State.withIssued
  rw [front, stage]
  exact if_pos fits

theorem exec_memoryAccessAnswer {s : State} {m : Fin 16} {a : Access} {i : Issue} {r : Answer} (at_ : s.AtMemory m a i)
    (fits : answerFits a r = true) : exec (.memoryAccessAnswer m r) s = .next (s.answerAccess m a i r).settle := by
  show done (s.catchUp.withIssued m r _) = _
  rw [catchUp_rest s at_.1, withIssued_of_atMemory at_ fits]
  rfl

theorem exec_clipReadAnswer {s : State} {m : Fin 16} {a : Access} {i : Issue} {r : Answer} (at_ : s.AtMemory m a i)
    (fits : answerFits a r = true) : exec (.clipReadAnswer m r) s = .next (s.answerClip m a i r).settle := by
  show done (s.catchUp.withIssued m r _) = _
  rw [catchUp_rest s at_.1, withIssued_of_atMemory at_ fits]
  rfl

theorem exec_talkthroughSourceAnswer {s : State} {m : Fin 16} {a : Access} {i : Issue} {r : Answer}
    (at_ : s.AtMemory m a i) (fits : answerFits a r = true) :
    exec (.talkthroughSourceAnswer m r) s = .next (s.answerSource m a i r).settle := by
  show done (s.catchUp.withIssued m r _) = _
  rw [catchUp_rest s at_.1, withIssued_of_atMemory at_ fits]
  rfl

/-- The fault of an access that the memory answered ERROR, by its direction (R17). -/
theorem memoryError_eq (s : State) (m : Fin 16) (a : Access) (w : Option (Fin 16)) :
    s.memoryError m a w = s.raiseFault (if a.dir = .read then .readError else .writeError) m.val a.addr w := by
  unfold State.memoryError
  cases a.dir <;> rfl

/-- A plain access is answered with what the memory answered, an ERROR after its fault (R17). -/
theorem answerAccess_plain (s : State) (m : Fin 16) (a : Access) (i : Issue) (r : Answer) (plain : i.treat = .plain) :
    s.answerAccess m a i r =
      (if r.ok then s else s.memoryError m a i.window).respond m r.ok (if a.dir = .read then r.data else []) := by
  unfold State.answerAccess
  rw [plain]
  cases a.dir <;> rfl

/-- An equalised read is answered with equalised data, or with zeros after its fault (R14, R84). -/
theorem answerAccess_equalise (s : State) (m : Fin 16) (a : Access) (i : Issue) (r : Answer) (g : Nat)
    (equalise : i.treat = .equalise g) :
    s.answerAccess m a i r = if r.ok then s.respond m true (equaliseBurst g a.be r.data)
      else (s.memoryError m a i.window).respond m false (zeros a.len) := by
  unfold State.answerAccess
  rw [equalise]
  cases r.ok <;> rfl

/-- The response of a mixed read: mixed data, or an ERROR with zeros (R135). -/
theorem finishMix_eq (s : State) (m : Fin 16) (a : Access) (v : MixValues) (prog : Answer) (clip : List Word) :
    s.finishMix m a v prog clip =
      s.respond m prog.ok (if prog.ok then mixBurst v a.be prog.data clip else zeros a.len) := by
  unfold State.finishMix
  cases prog.ok <;> rfl

/-- The programme read of a mixed read is answered: the read waits for its clip read, or is answered (R135). -/
theorem answerAccess_mix (s : State) (m : Fin 16) (a : Access) (i : Issue) (r : Answer) (v : MixValues)
    (mix : i.treat = .mix v) (first : i.answer = none) :
    s.answerAccess m a i r =
      let f := if r.ok then s else s.memoryError m a i.window
      match i.clip with
      | .issued _ => f.setStage m (.issued { i with answer := some r })
      | .absent => f.finishMix m a v r (zeros a.len)
      | .answered d => f.finishMix m a v r d := by
  unfold State.answerAccess
  rw [mix, first]
  cases i.clip <;> rfl

/-- The clip read of a mixed read is answered: the read waits for its programme read, or is answered (R135). -/
theorem answerClip_mix (s : State) (m : Fin 16) (a : Access) (i : Issue) (r : Answer) (v : MixValues) (port : MemAccess)
    (mix : i.treat = .mix v) (issued : i.clip = .issued port) :
    s.answerClip m a i r =
      let g := if r.ok then s else s.raiseFault .clipError Config.ownNumber port.addr i.window
      match i.answer with
      | none => g.setStage m (.issued { i with clip := if r.ok then .answered r.data else .absent })
      | some p => g.finishMix m a v p (if r.ok then r.data else zeros a.len) := by
  unfold State.answerClip
  rw [mix, issued]
  cases i.answer <;> rfl

/-- Settles O30: at rest the command is the answer to the access, and the answer goes by its treatment. -/
theorem memoryAccessAnswered : Obligations.MemoryAccessAnswered := by
  refine ⟨fun s m a i r at_ fits => ⟨fun plain => ?_, fun g equalise => ?_⟩, fun s m ok data => ?_⟩
  · rw [exec_memoryAccessAnswer at_ fits, answerAccess_plain s m a i r plain, memoryError_eq]
    rfl
  · rw [exec_memoryAccessAnswer at_ fits, answerAccess_equalise s m a i r g equalise, memoryError_eq]
    rfl
  · have next : nextTaking m (s.ports.get m).queue = if (s.ports.get m).queue.tail = [] then [] else [.take m] := by
      unfold nextTaking
      cases (s.ports.get m).queue.tail <;> rfl
    rw [← next]
    rfl

/-- Settles O31: the two answers to a mixed read come in either order, and the second one finishes it. -/
theorem transformedReadsAnswered : Obligations.TransformedReadsAnswered := by
  refine ⟨fun s m a i v r at_ mix read fits => ⟨fun first => ?_, fun port issued => ?_⟩,
    fun s m a i r gain down source frame at_ talk _ fits => ⟨fun ok => ?_, fun error => ?_⟩⟩
  · rw [exec_memoryAccessAnswer at_ fits, answerAccess_mix s m a i r v mix first, memoryError_eq, if_pos read]
    cases i.clip with
    | issued port => rfl
    | absent => exact congrArg done (finishMix_eq _ m a v r _)
    | answered d => exact congrArg done (finishMix_eq _ m a v r d)
  · rw [exec_clipReadAnswer at_ fits, answerClip_mix s m a i r v port mix issued]
    cases i.answer with
    | none => rfl
    | some p => exact congrArg done (finishMix_eq _ m a v p _)
  · rw [exec_talkthroughSourceAnswer at_ fits]
    unfold State.answerSource
    rw [talk]
    exact congrArg done (if_pos ok)
  · rw [exec_talkthroughSourceAnswer at_ fits]
    unfold State.answerSource
    rw [talk]
    exact congrArg done (if_neg (by simp [error]))

end Sys2Proof.Machine
end

section
/-! One advance of a zone (R126 to R130): progress, selection, ramp and the new record. -/

namespace Sys2Proof.Machine

/-! ## Writing one zone twice -/

theorem setAt_setAt {α : Type} {n : Nat} (v : Vector α n) (i : Fin n) (x y : α) :
    setAt (setAt v i x) i y = setAt v i y := Vector.set_set ..

theorem State.setZone_setZone (s : State) (z : Fin 8) (r q : ZoneRecord) :
    (s.setZone z r).setZone z q = s.setZone z q := by
  unfold State.setZone
  simp only [setAt_setAt]

/-! ## The best of a list -/

/-- One turn of the choice of the first member of a list that satisfies `p` with the highest `f` among those. -/
def better {α : Type} (p : α → Bool) (f : α → Nat) (best : Option α) (c : α) : Option α :=
  if p c then
    match best with
    | none => some c
    | some b => if f b < f c then some c else some b
  else best

theorem foldl_better_none {α : Type} (p : α → Bool) (f : α → Nat) (l : List α) (nobody : ∀ x ∈ l, ¬p x = true) :
    ∀ best, l.foldl (better p f) best = best := by
  induction l with
  | nil => exact fun _ => rfl
  | cons x xs ih =>
    intro best
    have passed : better p f best x = best := if_neg (nobody x List.mem_cons_self)
    rw [List.foldl_cons, passed]
    exact ih (fun y hy => nobody y (List.mem_cons_of_mem x hy)) best

theorem foldl_better_stays {α : Type} (p : α → Bool) (f : α → Nat) (c : α) (l : List α)
    (top : ∀ x ∈ l, p x = true → f x ≤ f c) : l.foldl (better p f) (some c) = some c := by
  induction l with
  | nil => rfl
  | cons x xs ih =>
    have stays : better p f (some c) x = some c := by
      unfold better
      split
      · next holds => exact if_neg (Nat.not_lt.mpr (top x List.mem_cons_self holds))
      · rfl
    rw [List.foldl_cons, stays]
    exact ih fun y hy => top y (List.mem_cons_of_mem x hy)

/-- In an ascending list the choice falls on the lowest member among the highest. -/
theorem foldl_better_some {n : Nat} (p : Fin n → Bool) (f : Fin n → Nat) (c : Fin n) (holds : p c = true)
    (highest : ∀ x, p x = true → f x < f c ∨ (f x = f c ∧ c ≤ x)) (l : List (Fin n)) (ascending : l.Pairwise (· < ·))
    (member : c ∈ l) : ∀ best, (∀ b, best = some b → f b < f c) → l.foldl (better p f) best = some c := by
  induction l with
  | nil => cases member
  | cons x xs ih =>
    intro best lower
    obtain ⟨first, ascending⟩ := List.pairwise_cons.mp ascending
    rw [List.foldl_cons]
    rcases List.mem_cons.mp member with rfl | later
    · have taken : better p f best c = some c := by
        unfold better
        rw [if_pos holds]
        cases best with
        | none => rfl
        | some b => exact if_pos (lower b rfl)
      rw [taken]
      exact foldl_better_stays p f c xs fun y _ hy => by have := highest y hy; omega
    · refine ih ascending later _ fun b hb => ?_
      unfold better at hb
      split at hb
      · next hx =>
        have xLower : f x < f c := by
          have before := first c later
          have := highest x hx
          omega
        cases best with
        | none =>
          cases hb
          exact xLower
        | some b' =>
          simp only at hb
          split at hb
          · cases hb
            exact xLower
          · cases hb
            exact lower b rfl
      · exact lower b hb

/-- The cue waits in the zone with a level above `floor` (R127, R128). -/
def State.waitsAbove (s : State) (z : Fin 8) (floor : Nat) (c : Fin 32) : Bool :=
  (s.cues.get c).waitsIn z && decide (floor < (s.cues.get c).level)

theorem State.waitsAbove_iff (s : State) (z : Fin 8) (floor : Nat) (c : Fin 32) : s.waitsAbove z floor c = true ↔
    (s.cues.get c).waiting.getLsbD z.val = true ∧ floor < (s.cues.get c).level :=
  Bool.and_eq_true_iff.trans (and_congr_right' decide_eq_true_iff)

theorem State.bestWaiting_eq (s : State) (z : Fin 8) (floor : Nat) : s.bestWaiting z floor =
    (List.finRange 32).foldl (better (s.waitsAbove z floor) fun c => (s.cues.get c).level) none := by
  unfold State.bestWaiting
  congr 1
  funext best c
  cases best <;> rfl

theorem State.bestWaiting_none (s : State) (z : Fin 8) (floor : Nat) (h : ∀ c, ¬s.waitsAbove z floor c = true) :
    s.bestWaiting z floor = none := by
  rw [s.bestWaiting_eq]
  exact foldl_better_none _ _ _ (fun c _ => h c) none

theorem State.bestWaiting_some (s : State) (z : Fin 8) (floor : Nat) (c : Fin 32) (holds : s.waitsAbove z floor c = true)
    (highest : ∀ x, s.waitsAbove z floor x = true → (s.cues.get x).level < (s.cues.get c).level ∨
      ((s.cues.get x).level = (s.cues.get c).level ∧ c ≤ x)) : s.bestWaiting z floor = some c := by
  rw [s.bestWaiting_eq]
  exact foldl_better_some _ _ c holds highest _ (List.pairwise_lt_finRange 32) (List.mem_finRange c) none nofun

/-! ## Progress and selection -/

theorem CueEntry.endsAt_iff (e : CueEntry) (k : Nat) :
    e.endsAt k = true ↔ (e.repeats ≠ 0 ∧ k = e.length * e.repeats) ∨ e.state = .stopping := by
  simp [CueEntry.endsAt]

theorem progress_none {s : State} {z : Fin 8} (h : (s.zones.get z).active = none) : s.progress z = s := by
  unfold State.progress
  simp only [h]

/-- Progress of an active cue: it ends, or plays on (R126). -/
theorem progress_some {s : State} {z : Fin 8} {a : ActiveCue} (h : (s.zones.get z).active = some a) :
    s.progress z = if (s.cues.get a.cue).endsAt ((s.cues.get a.cue).nextK a.k) then
        ((s.setZone z { s.zones.get z with active := none }).list (.cue a.cue)).endCheck a.cue .completed
      else s.setZone z { s.zones.get z with active := some { a with k := (s.cues.get a.cue).nextK a.k } } := by
  unfold State.progress
  simp only [h]

/-- The start of a waiting cue, with the tag that the cue had (R127, R128). -/
theorem startIn_eq (s : State) (z : Fin 8) (c : Fin 32) (stack : List StackEntry) :
    s.startIn z c stack =
      let e := s.cues.get c
      let v : State := ((s.setZone z { s.zones.get z with active := some { cue := c, k := 0 }, stack := stack }).setCue c
        { e with
          waiting := e.waiting &&& ~~~(BitVec.twoPow 8 z.val)
          state := if e.state = .queued then .active else e.state }).list (.cue c)
      if e.state = .queued then v.raiseEvent .cueStarted c.val e.tag z.val else v := by
  unfold State.startIn State.raiseCue
  simp only [State.list_cues, State.setCue_cues, setAt_get, if_true]

section
variable {s : State} {z : Fin 8}

/-- An active cue goes on, or is suspended by a waiting cue of a higher level (R128). -/
theorem select_active {a : ActiveCue} (h : (s.zones.get z).active = some a) :
    (s.bestWaiting z (s.cues.get a.cue).level = none → s.select z = s) ∧
    ∀ c, s.bestWaiting z (s.cues.get a.cue).level = some c → s.select z = (s.list (.cue a.cue)).startIn z c
      ({ cue := a.cue, level := (s.cues.get a.cue).level, k := a.k } :: (s.zones.get z).stack) := by
  unfold State.select
  simp only [h]
  exact ⟨fun k => by rw [k], fun c k => by rw [k]⟩

/-- In a zone with nothing active or suspended the best waiting cue starts (R127). -/
theorem select_idle (h : (s.zones.get z).active = none) (empty : (s.zones.get z).stack = []) :
    (s.bestWaiting z 0 = none → s.select z = s) ∧ ∀ c, s.bestWaiting z 0 = some c → s.select z = s.startIn z c [] := by
  unfold State.select
  simp only [h, empty]
  exact ⟨fun k => by rw [k], fun c k => by rw [k]⟩

/-- In a zone with a suspended cue that one resumes, or a waiting cue of a higher level starts (R128). -/
theorem select_suspended {top : StackEntry} {below : List StackEntry} (h : (s.zones.get z).active = none)
    (stack : (s.zones.get z).stack = top :: below) :
    (s.bestWaiting z top.level = none → s.select z =
      (s.setZone z { s.zones.get z with active := some { cue := top.cue, k := top.k }, stack := below }).list
        (.cue top.cue)) ∧
    ∀ c, s.bestWaiting z top.level = some c → s.select z = s.startIn z c (s.zones.get z).stack := by
  unfold State.select
  simp only [h, stack]
  exact ⟨fun k => by rw [k], fun c k => by rw [k]⟩

end

/-! ## The ramp and the new record -/

/-- The mask level, the duck gain and the new record of an advance, with the record for the next frame (R129, R13). -/
theorem ramp_formRecord {s : State} {z : Fin 8} {c : FrameRecord} (frames : Nat)
    (h : (s.zones.get z).current = some c) :
    (s.ramp z).formRecord z frames =
      let r := s.zones.get z
      (s.setZone z { r with
        mask := s.activeLevel z
        gd := rampStep (s.duckTarget z) r.gd r.ramp
        previous := some c
        current := some ((s.ramp z).recordFor z ((c.frame + 1) % frames)) }).list (.zone z) := by
  have zone : (s.ramp z).zones.get z =
      { s.zones.get z with
        mask := s.activeLevel z
        gd := rampStep (s.duckTarget z) (s.zones.get z).gd (s.zones.get z).ramp } := by
    unfold State.ramp
    rw [State.setZone_zones, setAt_get, if_pos rfl]
  have current : ((s.ramp z).zones.get z).current = some c := by rw [zone]; exact h
  unfold State.formRecord
  simp only [current]
  rw [zone, State.ramp, State.setZone_setZone]

/-- The record that an advance forms, from the zone's active cue and its new duck gain (R129). -/
theorem ramp_recordFor (s : State) (z : Fin 8) (f : Nat) :
    (s.ramp z).recordFor z f =
      let r := s.zones.get z
      let gd := rampStep (s.duckTarget z) r.gd r.ramp
      match r.active with
      | some a => { frame := f, cue := some a.cue, clip := (s.cues.get a.cue).clipFrame a.k, gd := gd,
                    gi := (s.cues.get a.cue).gi }
      | none => { frame := f, cue := none, clip := 0, gd := gd, gi := 0 } := by
  cases active : (s.zones.get z).active <;> simp [State.recordFor, State.ramp, active]

/-- Settles O42: each step by its own equation, selection by what the fold over the cues finds. -/
theorem zoneAdvances : Obligations.ZoneAdvances := by
  refine ⟨fun s z frames => ⟨rfl, rfl, fun _ => rfl⟩, fun s z => ⟨progress_none, fun a active => ?_⟩, fun s z => ?_,
    fun s z frames c current => ?_⟩
  · have ends := CueEntry.endsAt_iff (s.cues.get a.cue) ((s.cues.get a.cue).nextK a.k)
    exact ⟨fun plays => (progress_some active).trans (if_neg (mt ends.mp plays)),
      fun finished => (progress_some active).trans (if_pos (ends.mpr finished))⟩
  · intro r waits best starts
    have nobody {floor : Nat} (h : ∀ c, ¬waits floor c) : s.bestWaiting z floor = none :=
      s.bestWaiting_none z floor fun c => mt (s.waitsAbove_iff z floor c).mp (h c)
    have found {floor : Nat} {c : Fin 32} (h : best floor c) : s.bestWaiting z floor = some c :=
      s.bestWaiting_some z floor c ((s.waitsAbove_iff z floor c).mpr h.1)
        fun x hx => h.2 x ((s.waitsAbove_iff z floor x).mp hx)
    exact ⟨fun a active =>
        ⟨fun h => (select_active active).1 (nobody h),
          fun c h => ((select_active active).2 c (found h)).trans (startIn_eq _ z c _)⟩,
      fun idle empty =>
        ⟨fun h => (select_idle idle empty).1 (nobody h),
          fun c h => ((select_idle idle empty).2 c (found h)).trans (startIn_eq s z c _)⟩,
      fun idle top below stack =>
        ⟨fun h => (select_suspended idle stack).1 (nobody h),
          fun c h => ((select_suspended idle stack).2 c (found h)).trans (startIn_eq s z c _)⟩⟩
  · rw [ramp_formRecord frames current, ramp_recordFor]
    unfold State.activeLevel State.duckTarget
    dsimp only
    cases (s.zones.get z).active <;> rfl

end Sys2Proof.Machine
end

section
/-! How a flush starts (R46, R66, R67, R71): the translation that it asks for, answered from what becoming FLUSHING leaves
alone, and the sixteen bursts with their snoops. -/

namespace Sys2Proof.Machine

/-! ## What a request for a translation is answered (R34 to R40) -/

section
variable {s : State} {w : Fin 16} {f : Nat} {tr : Bool × Addr} (o : Owner) (d : Option Addr) (own : Bool)

theorem translate_direct (h : (s.windows.get w).translation = tr) (direct : tr.1 = false)
    (outside : s.inRegion (directFrame tr.2 f) = false) :
    s.translate o w f d own = (.given (directFrame tr.2 f), s) := by
  unfold State.translate
  simp [h, direct, outside]

theorem translate_direct_refused (h : (s.windows.get w).translation = tr) (direct : tr.1 = false)
    (inside : s.inRegion (directFrame tr.2 f) = true) :
    s.translate o w f d own =
      (.refused, s.raiseFault .unmapped o.number (d.getD (directFrame tr.2 f)) (some w)) := by
  unfold State.translate
  simp [h, direct, inside]

theorem translate_mapped_refused (h : (s.windows.get w).translation = tr) (mapped : tr.1 = true)
    (inside : s.inRegion (mapEntryAddr tr.2 f) = true) :
    s.translate o w f d own = (.refused, s.raiseFault .unmapped o.number (mapEntryAddr tr.2 f) (some w)) := by
  unfold State.translate
  simp [h, mapped, inside]

theorem translate_hit {x : CacheEntry} (h : (s.windows.get w).translation = tr) (mapped : tr.1 = true)
    (outside : s.inRegion (mapEntryAddr tr.2 f) = false) (hit : s.cached w f = some x) :
    s.translate o w f d own = (.given x.phys, s.touchCache x) := by
  unfold State.translate
  simp [h, mapped, outside, hit]

theorem translate_miss (h : (s.windows.get w).translation = tr) (mapped : tr.1 = true)
    (outside : s.inRegion (mapEntryAddr tr.2 f) = false) (miss : s.cached w f = none) :
    s.translate o w f d own = (.waiting, s.joinQueue
      { owner := o, window := w, frame := f, mapAddr := mapEntryAddr tr.2 f, own := own }) := by
  unfold State.translate
  simp [h, mapped, outside, miss]

end

theorem joinQueue_eq (s : State) (r : TransReq) :
    s.joinQueue r = if s.translationWaits = [] ∧ s.translations.length < 8 then
        { s with translations := s.translations ++ [r] }
      else { s with translationWaits := s.translationWaits ++ [r] } := by
  have place : (s.translationWaits.isEmpty && decide (s.translations.length < Config.translationPlaces)) = true ↔
      s.translationWaits = [] ∧ s.translations.length < 8 := by
    rw [Bool.and_eq_true, List.isEmpty_iff, decide_eq_true_iff]
    rfl
  exact if_congr place rfl rfl

/-! ## What becoming FLUSHING leaves alone -/

/-- What the Frame Translator looks at when a translation is asked for: the straps, the windows, the cache and the queue. -/
def State.translatorView (s : State) :
    BitVec 8 × Vector WindowEntry 16 × List CacheEntry × List TransReq × List TransReq :=
  (s.baseStraps, s.windows, s.cache, s.translations, s.translationWaits)

theorem raiseEvent_translatorView (s : State) (k : EventKind) (o : Nat) (t : Byte) (r : Nat) :
    (s.raiseEvent k o t r).translatorView = s.translatorView := by
  unfold State.raiseEvent State.loseEvent State.listIf
  repeat' split
  all_goals rfl

theorem accountSegment_translatorView (t : Slot) (s : State) (g : Fin 12) :
    (State.accountSegment t s g).translatorView = s.translatorView := by
  unfold State.accountSegment State.listIf
  dsimp only
  repeat' split
  all_goals simp [State.translatorView]

theorem accountMisses_translatorView (s : State) (t : Slot) (o : SlotOutcome) :
    (s.accountMisses t o).translatorView = s.translatorView := by
  unfold State.accountMisses
  split
  · rfl
  · exact foldl_keeps State.translatorView _ (accountSegment_translatorView t) _ _

/-- A slot that becomes FLUSHING leaves alone what its translation depends on (R69). -/
theorem enterFlushing_translatorView (s : State) (n : Fin 16) (o : SlotOutcome) :
    (s.enterFlushing n o).translatorView = s.translatorView := by
  have counted (t : Slot) : (((s.setSlot n t).list (.slot n)).countFrame t.service o).translatorView = s.translatorView := by
    simp [State.translatorView, State.countFrame]
  unfold State.enterFlushing
  dsimp only
  rw [accountMisses_translatorView]
  split
  · exact (raiseEvent_translatorView _ _ _ _ _).trans (counted _)
  · exact counted _

/-! ## The start of a flush -/

theorem Slot.isComplete_iff (t : Slot) :
    t.isComplete = true ↔ t.state = .filling ∧ ∀ g ∈ t.expected, (t.contribs.get g).state = .done := by
  simp [Slot.isComplete]

theorem checkComplete_of_complete {s : State} {n : Fin 16} (h : (s.slots.get n).isComplete = true) :
    s.checkComplete n = s.startFlush n .complete := if_pos h

theorem checkComplete_of_incomplete {s : State} {n : Fin 16} (h : ¬(s.slots.get n).isComplete = true) :
    s.checkComplete n = s := if_neg h

section
variable {s u : State} {n : Fin 16} {o : SlotOutcome}

theorem startFlush_of_given {p : Addr} (h : (s.enterFlushing n o).translate (.flush n) (s.slots.get n).window
    (s.slots.get n).frame none true = (.given p, u)) : s.startFlush n o = u.issueBursts n p := by
  unfold State.startFlush State.beginFlush
  rw [h]

theorem startFlush_of_refused (h : (s.enterFlushing n o).translate (.flush n) (s.slots.get n).window
    (s.slots.get n).frame none true = (.refused, u)) : s.startFlush n o = u.flushRefused n := by
  unfold State.startFlush State.beginFlush
  rw [h]

theorem startFlush_of_waiting (h : (s.enterFlushing n o).translate (.flush n) (s.slots.get n).window
    (s.slots.get n).frame none true = (.waiting, u)) : s.startFlush n o = u := by
  unfold State.startFlush State.beginFlush
  rw [h]

end

theorem exec_deadlineExpiry {s : State} {n : Fin 16} {d : Nat} (rest : s.AtRest) (filling : (s.slots.get n).state = .filling)
    (timer : (s.slots.get n).timer = some d) (past : d ≤ s.timebase) :
    exec (.deadlineExpiry n) s = .next (s.startFlush n .deadline).settle := by
  have expired : s.deadlineDue n = true := by
    unfold State.deadlineDue
    simp [filling, timer, past]
  show done (if s.catchUp.deadlineDue n then s.catchUp.startFlush n .deadline else s.catchUp) = _
  rw [catchUp_rest s rest, if_pos expired]
  rfl

/-! ## The bursts of a flush and their snoops (R43, R71) -/

theorem mem_burstAddrs (a : Addr) (n : Nat) (x : Addr) : x ∈ burstAddrs a n ↔ ∃ i < n, x = wordAddr a i := by
  simp [burstAddrs, eq_comm]

theorem mem_hazarded (s : State) (a : Addr) (n : Nat) (x : Addr) :
    x ∈ s.hazarded a n ↔ (∃ i < n, x = wordAddr a i) ∧ ∃ w, (s.windows.get w).mapRegionHolds x = true := by
  simp [State.hazarded, mem_burstAddrs]

/-- The snoop of a write of `n` words at `a` leaves the cache entry (R43). -/
def State.snoopSpares (s : State) (a : Addr) (n : Nat) (c : CacheEntry) : Bool :=
  (s.hazarded a n).isEmpty || !(burstAddrs a n).contains (s.cacheAddr c)

theorem snoopedCache_eq (s : State) (a : Addr) (n : Nat) : s.snoopedCache a n = s.cache.filter (s.snoopSpares a n) := by
  unfold State.snoopedCache State.snoopSpares
  cases (s.hazarded a n).isEmpty <;> simp

theorem snoopSpares_iff (s : State) (a : Addr) (n : Nat) (c : CacheEntry) : s.snoopSpares a n c = true ↔
    ((∃ i < n, ∃ w, (s.windows.get w).mapRegionHolds (wordAddr a i) = true) → ∀ i < n, s.cacheAddr c ≠ wordAddr a i) := by
  have nothing : (s.hazarded a n).isEmpty = true ↔
      ¬∃ i < n, ∃ w, (s.windows.get w).mapRegionHolds (wordAddr a i) = true := by
    rw [List.isEmpty_iff, List.eq_nil_iff_forall_not_mem]
    constructor
    · rintro nowhere ⟨i, hi, w, hw⟩
      exact nowhere _ ((mem_hazarded s a n _).mpr ⟨⟨i, hi, rfl⟩, w, hw⟩)
    · intro nowhere x hx
      obtain ⟨⟨i, hi, rfl⟩, w, hw⟩ := (mem_hazarded s a n x).mp hx
      exact nowhere ⟨i, hi, w, hw⟩
  have apart : (!(burstAddrs a n).contains (s.cacheAddr c)) = true ↔ ∀ i < n, s.cacheAddr c ≠ wordAddr a i := by
    simp [mem_burstAddrs]
  unfold State.snoopSpares
  rw [Bool.or_eq_true, nothing, apart, imp_iff_not_or]

/-- The hazards that a burst of a flush brings (R43). -/
def State.burstHazards (s : State) (n : Fin 16) (phys : Addr) (k : Fin 16) : List Hazard :=
  (s.hazarded (burstAddr phys k) 16).map fun x => { addr := x, source := .flush n k }

/-- The snoops of several bursts together: each looks at windows that none of them changes. -/
theorem snoopBursts_eq (n : Fin 16) (phys : Addr) (l : List (Fin 16)) : ∀ s : State,
    l.foldl (fun s k => s.snoop (.flush n k) (burstAddr phys k) 16) s = { s with
      cache := s.cache.filter fun c => l.all fun k => s.snoopSpares (burstAddr phys k) 16 c
      hazards := s.hazards ++ l.flatMap (s.burstHazards n phys)
      fetch := s.fetch.map fun f =>
        { f with discard := f.discard || l.any fun k => (s.hazarded (burstAddr phys k) 16).contains f.request.mapAddr } } := by
  induction l with
  | nil =>
    intro s
    cases hf : s.fetch <;> simp [← hf]
  | cons k ks ih =>
    intro s
    have first : s.snoop (.flush n k) (burstAddr phys k) 16 = { s with
        cache := s.cache.filter (s.snoopSpares (burstAddr phys k) 16)
        hazards := s.hazards ++ s.burstHazards n phys k
        fetch := s.fetch.map fun f =>
          { f with discard := f.discard || (s.hazarded (burstAddr phys k) 16).contains f.request.mapAddr } } := by
      unfold State.snoop
      rw [snoopedCache_eq]
      rfl
    rw [List.foldl_cons, ih, first]
    simp only [List.all_cons, List.any_cons, List.flatMap_cons]
    congr 1
    · rw [List.filter_filter]
      exact List.filter_congr fun c _ => Bool.and_comm _ _
    · cases s.fetch with
      | none => rfl
      | some f => exact congrArg (fun b => some ({ f with discard := b } : MapFetch)) (Bool.or_assoc _ _ _)
    · exact List.append_assoc _ _ _

/-- The part once the bursts of a flush are issued: the slot holds them, and each has been snooped (R71). -/
theorem issueBursts_eq (s : State) (n : Fin 16) (phys : Addr) :
    s.issueBursts n phys = { s with
      slots := setAt s.slots n
        { s.slots.get n with flush := some { phys := phys, left := List.finRange 16, failed := false } }
      cache := s.cache.filter fun c => (List.finRange 16).all fun k => s.snoopSpares (burstAddr phys k) 16 c
      hazards := s.hazards ++ (List.finRange 16).flatMap (s.burstHazards n phys)
      fetch := s.fetch.map fun f => { f with
        discard := f.discard ||
          (List.finRange 16).any fun k => (s.hazarded (burstAddr phys k) 16).contains f.request.mapAddr } } :=
  snoopBursts_eq n phys _ _

/-- The word addresses of the sixteen bursts, counted through the frame (R71). -/
theorem wordAddr_burstAddr (phys : Addr) (k : Fin 16) (i : Nat) :
    wordAddr (burstAddr phys k) i = phys + BitVec.ofNat 32 (4 * (16 * k.val + i)) := by
  unfold wordAddr burstAddr
  rw [BitVec.add_assoc, ← BitVec.ofNat_add, show 64 * k.val + 4 * i = 4 * (16 * k.val + i) by omega]

/-- The words under the sixteen bursts are the 256 words of the frame. -/
theorem exists_burst_word (phys x : Addr) : (∃ k : Fin 16, ∃ i < 16, x = wordAddr (burstAddr phys k) i) ↔
    ∃ i < 256, x = phys + BitVec.ofNat 32 (4 * i) := by
  constructor
  · rintro ⟨k, i, hi, rfl⟩
    exact ⟨16 * k.val + i, by omega, wordAddr_burstAddr phys k i⟩
  · rintro ⟨i, hi, rfl⟩
    refine ⟨⟨i / 16, by omega⟩, i % 16, by omega, ?_⟩
    rw [wordAddr_burstAddr]
    simp only [Nat.div_add_mod]

theorem mem_issueBursts_cache (s : State) (n : Fin 16) (phys : Addr) (c : CacheEntry) :
    c ∈ (s.issueBursts n phys).cache ↔ c ∈ s.cache ∧ ∀ k : Fin 16,
      (∃ i < 16, ∃ w, (s.windows.get w).mapRegionHolds (wordAddr (burstAddr phys k) i) = true) →
        ∀ i < 16, s.cacheAddr c ≠ wordAddr (burstAddr phys k) i := by
  rw [issueBursts_eq]
  simp only [List.mem_filter, List.all_eq_true, List.mem_finRange, forall_const, snoopSpares_iff]

theorem mem_issueBursts_hazards (s : State) (n : Fin 16) (phys : Addr) (h : Hazard) :
    h ∈ (s.issueBursts n phys).hazards ↔ h ∈ s.hazards ∨ ∃ (k : Fin 16), ∃ i < 16, h.source = .flush n k ∧
      h.addr = wordAddr (burstAddr phys k) i ∧ ∃ w, (s.windows.get w).mapRegionHolds h.addr = true := by
  rw [issueBursts_eq]
  simp only [List.mem_append, List.mem_flatMap, List.mem_finRange, true_and]
  refine or_congr_right (exists_congr fun k => ?_)
  unfold State.burstHazards
  rw [List.mem_map]
  constructor
  · rintro ⟨x, hx, rfl⟩
    obtain ⟨⟨i, hi, word⟩, window⟩ := (mem_hazarded s _ 16 x).mp hx
    exact ⟨i, hi, rfl, word, window⟩
  · rintro ⟨i, hi, source, word, window⟩
    refine ⟨h.addr, (mem_hazarded s _ 16 _).mpr ⟨⟨i, hi, word⟩, window⟩, ?_⟩
    rw [← source]

/-- The bursts of a flush mark a fetch in flight for a map entry of a MAPPED window under them (R44). -/
theorem issueBursts_fetch (s : State) (n : Fin 16) (phys : Addr) (f : MapFetch)
    (after : (s.issueBursts n phys).fetch = some f) : ∃ f', s.fetch = some f' ∧ f.request = f'.request ∧
      (f.discard = true ↔ f'.discard = true ∨
        ((∃ i < 256, f'.request.mapAddr = phys + BitVec.ofNat 32 (4 * i)) ∧
          ∃ w, (s.windows.get w).mapRegionHolds f'.request.mapAddr = true)) := by
  rw [issueBursts_eq] at after
  obtain ⟨f', before, rfl⟩ := Option.map_eq_some_iff.mp after
  refine ⟨f', before, rfl, ?_⟩
  simp only [Bool.or_eq_true, List.any_eq_true, List.mem_finRange, true_and, List.contains_iff_mem, mem_hazarded,
    ← exists_burst_word, exists_and_right]

/-- A burst of the frame that a slot holds carries the clamped accumulators (R8, R71). -/
theorem flushBurst_data (acc : List Lanes) (phys : Addr) (k : Fin 16) {i : Nat} (h : i < 16) :
    (flushBurst acc phys k).data[i]? = acc[16 * k.val + i]?.map flushedWord := by
  unfold flushBurst
  simp [h]

theorem flushBurst_mem_memoryPort (s : State) (n : Fin 16) (phys : Addr) (k : Fin 16) :
    flushBurst (s.slots.get n).acc phys k ∈ (s.issueBursts n phys).memoryPort := by
  have held : (s.issueBursts n phys).slots.get n =
      { s.slots.get n with flush := some { phys := phys, left := List.finRange 16, failed := false } } := by
    rw [issueBursts_eq]
    exact (setAt_get _ _ _ _).trans (if_pos rfl)
  have out : ({ slot := n, burst := k, port := flushBurst (s.slots.get n).acc phys k } : StaleBurst) ∈
      (s.issueBursts n phys).unansweredBursts n := by
    unfold State.unansweredBursts
    rw [held]
    exact List.mem_map.mpr ⟨k, List.mem_finRange k, rfl⟩
  have flush : flushBurst (s.slots.get n).acc phys k ∈ (s.issueBursts n phys).flushAccesses :=
    List.mem_map.mpr ⟨_, List.mem_append_left _ (List.mem_flatMap.mpr ⟨n, List.mem_finRange n, out⟩), rfl⟩
  unfold State.memoryPort
  simp only [List.mem_append]
  exact .inl (.inl (.inl (.inl (.inr flush))))

end Sys2Proof.Machine
end

section
/-! How a flush ends (R73, R55): what a slot's allocation depends on and the end leaves alone, and the writes that waited. -/

namespace Sys2Proof.Machine

/-! ## Listing and writing twice -/

theorem addListed_twice (id : RecordId) (l : List ListedRecord) :
    addListed id [] (addListed id [] l) = addListed id [] l := by
  induction l with
  | nil => simp [addListed]
  | cons r rs ih =>
    by_cases here : r.id = id
    · simp [addListed, here]
    · simp [addListed, here, ih]

theorem State.list_list (s : State) (id : RecordId) : (s.list id).list id = s.list id := by
  unfold State.list State.listBytes
  simp only [addListed_twice]

theorem State.setService_setService (s : State) (v : Fin 8) (e e' : ServiceEntry) :
    (s.setService v e).setService v e' = s.setService v e' := by
  have twice : setAt (setAt s.services v e) v e' = setAt s.services v e' := Vector.set_set ..
  unfold State.setService
  simp only [twice]

theorem State.setSlot_setSlot (s : State) (n : Fin 16) (t t' : Slot) : (s.setSlot n t).setSlot n t' = s.setSlot n t' := by
  have twice : setAt (setAt s.slots n t) n t' = setAt s.slots n t' := Vector.set_set ..
  unfold State.setSlot
  simp only [twice]

theorem State.list_setService (s : State) (id : RecordId) (v : Fin 8) (e : ServiceEntry) :
    (s.list id).setService v e = (s.setService v e).list id := rfl

theorem State.list_setSlot (s : State) (id : RecordId) (n : Fin 16) (t : Slot) :
    (s.list id).setSlot n t = (s.setSlot n t).list id := rfl

theorem State.setService_setSlot (s : State) (v : Fin 8) (e : ServiceEntry) (n : Fin 16) (t : Slot) :
    (s.setService v e).setSlot n t = (s.setSlot n t).setService v e := rfl

/-- A service entry that is written and perhaps listed, then written again and listed, keeps only the second writing. -/
theorem setService_listIf_setService_list (s : State) (v : Fin 8) (e e' : ServiceEntry) (b : Bool) :
    (((s.setService v e).listIf b (.service v)).setService v e').list (.service v) =
      (s.setService v e').list (.service v) := by
  cases b with
  | false =>
    show ((s.setService v e).setService v e').list _ = _
    rw [State.setService_setService]
  | true =>
    show (((s.setService v e).list _).setService v e').list _ = _
    rw [State.list_setService, State.list_list, State.setService_setService]

/-- A slot that is written before a service entry and after it keeps only the second writing. -/
theorem setSlot_setService_list_setSlot (s : State) (n : Fin 16) (t t' : Slot) (v : Fin 8) (e : ServiceEntry) :
    (((s.setSlot n t).setService v e).list (.service v)).setSlot n t' =
      ((s.setService v e).list (.service v)).setSlot n t' := by
  simp only [State.list_setSlot, State.setService_setSlot, State.setSlot_setSlot]

/-! ## What the allocation of a slot depends on (R52) -/

/-- What a freshly allocated slot is made from: the windows, the services' deadlines, the segments and the time. -/
def State.slotBasis (s : State) : Vector WindowEntry 16 × (Fin 8 → Nat) × Vector SegmentEntry 12 × Nat :=
  (s.windows, fun v => (s.services.get v).deadline, s.segments, s.timebase)

theorem slotBasis_windows {s t : State} (h : s.slotBasis = t.slotBasis) : s.windows = t.windows := congrArg (·.1) h

theorem freshSlot_congr {s t : State} (h : s.slotBasis = t.slotBasis) (w : Fin 16) (f : Nat) :
    s.freshSlot w f = t.freshSlot w f := by
  have windows := slotBasis_windows h
  have deadline (v : Fin 8) : (s.services.get v).deadline = (t.services.get v).deadline :=
    congrFun (congrArg (·.2.1) h) v
  have segments : s.segments = t.segments := congrArg (·.2.2.1) h
  have timebase : s.timebase = t.timebase := congrArg (·.2.2.2) h
  unfold State.freshSlot State.expectedSet State.now
  simp only [windows, deadline, segments, timebase]

theorem setService_slotBasis (s : State) (v : Fin 8) (e : ServiceEntry) (h : e.deadline = (s.services.get v).deadline) :
    (s.setService v e).slotBasis = s.slotBasis := by
  have deadlines : (fun x => ((setAt s.services v e).get x).deadline) = fun x => (s.services.get x).deadline := by
    funext x
    rw [setAt_get]
    split
    · next here => rw [h, here]
    · rfl
  exact congrArg (fun d => (s.windows, d, s.segments, s.timebase)) deadlines

@[simp] theorem list_slotBasis (s : State) (id : RecordId) : (s.list id).slotBasis = s.slotBasis := rfl

@[simp] theorem listIf_slotBasis (s : State) (b : Bool) (id : RecordId) : (s.listIf b id).slotBasis = s.slotBasis := by
  cases b <;> rfl

@[simp] theorem setSlot_slotBasis (s : State) (n : Fin 16) (t : Slot) : (s.setSlot n t).slotBasis = s.slotBasis := rfl

@[simp] theorem setStage_slotBasis (s : State) (m : Fin 16) (st : Stage) : (s.setStage m st).slotBasis = s.slotBasis := rfl

@[simp] theorem respond_slotBasis (s : State) (m : Fin 16) (ok : Bool) (d : List Word) :
    (s.respond m ok d).slotBasis = s.slotBasis := rfl

@[simp] theorem respond_slots (s : State) (m : Fin 16) (ok : Bool) (d : List Word) : (s.respond m ok d).slots = s.slots :=
  rfl

@[simp] theorem endAlloc_slotBasis (s : State) (p : PendingAlloc) : (s.endAlloc p).slotBasis = s.slotBasis := rfl

theorem slotBasis_of_same {s t : State} (windows : s.windows = t.windows) (services : s.services = t.services)
    (segments : s.segments = t.segments) (timebase : s.timebase = t.timebase) : s.slotBasis = t.slotBasis := by
  unfold State.slotBasis
  rw [windows, services, segments, timebase]

/-- A fault leaves alone what the data paths work on: the windows, the services and the segments. -/
theorem raiseFault_leaves (s : State) (k : FaultKind) (n : Nat) (a : Addr) (w : Option (Fin 16)) :
    (s.raiseFault k n a w).windows = s.windows ∧ (s.raiseFault k n a w).services = s.services ∧
      (s.raiseFault k n a w).segments = s.segments := by
  have event (u : State) (k : EventKind) (o : Nat) (tag : Byte) (r : Nat) :
      (u.raiseEvent k o tag r).windows = u.windows ∧ (u.raiseEvent k o tag r).services = u.services ∧
        (u.raiseEvent k o tag r).segments = u.segments := by
    unfold State.raiseEvent State.loseEvent
    repeat' split
    all_goals simp
  have record (u : State) (c : Bool) (r : FaultRecord) :
      (u.setFaultRecord c r).windows = u.windows ∧ (u.setFaultRecord c r).services = u.services ∧
        (u.setFaultRecord c r).segments = u.segments := by
    unfold State.setFaultRecord
    split <;> simp
  unfold State.raiseFault State.countLostFault
  simp only [event]
  split <;> simp [record]

@[simp] theorem raiseFault_services (s : State) (k : FaultKind) (n : Nat) (a : Addr) (w : Option (Fin 16)) :
    (s.raiseFault k n a w).services = s.services := (raiseFault_leaves s k n a w).2.1

@[simp] theorem raiseFault_slotBasis (s : State) (k : FaultKind) (n : Nat) (a : Addr) (w : Option (Fin 16)) :
    (s.raiseFault k n a w).slotBasis = s.slotBasis := by
  obtain ⟨windows, services, segments⟩ := raiseFault_leaves s k n a w
  exact slotBasis_of_same windows services segments (raiseFault_quiet s k n a w).timebase

@[simp] theorem countFlushError_slotBasis (s : State) (v : Fin 8) : (s.countFlushError v).slotBasis = s.slotBasis :=
  (listIf_slotBasis _ _ _).trans (setService_slotBasis s v _ rfl)

@[simp] theorem translate_slotBasis (s : State) (o : Owner) (w : Fin 16) (f : Nat) (d : Option Addr) (own : Bool) :
    (s.translate o w f d own).2.slotBasis = s.slotBasis := by
  have join (r : TransReq) : (s.joinQueue r).slotBasis = s.slotBasis := by
    unfold State.joinQueue
    split <;> rfl
  have touch (c : CacheEntry) : (s.touchCache c).slotBasis = s.slotBasis := rfl
  unfold State.translate
  dsimp only
  repeat' split
  all_goals simp [join, touch]

/-- An access that goes on to memory leaves the slots and the basis of an allocation alone (R36). -/
theorem deliver_leaves (s : State) (m : Fin 16) (a : Access) (h : WinHit) (t : Treatment) (own : Bool) (p : Addr) :
    (s.deliver m a h t own p).slots = s.slots ∧ (s.deliver m a h t own p).slotBasis = s.slotBasis := by
  have issue (u : State) (i : Issue) : (u.issue m i).slots = u.slots ∧ (u.issue m i).slotBasis = u.slotBasis := ⟨rfl, rfl⟩
  have snoop (x : Addr) (n : Nat) (i : Issue) : ((s.snoop (.master m) x n).issue m i).slots = s.slots ∧
      ((s.snoop (.master m) x n).issue m i).slotBasis = s.slotBasis := ⟨rfl, rfl⟩
  have clip (v : MixValues) : (s.issueClip h a.len v).2.slots = s.slots ∧
      (s.issueClip h a.len v).2.slotBasis = s.slotBasis := by
    unfold State.issueClip
    split
    · exact ⟨rfl, rfl⟩
    · dsimp only
      split <;> simp
  have underrun (d : Fin 8) : (s.underrun m a d).slots = s.slots ∧ (s.underrun m a d).slotBasis = s.slotBasis := by
    refine ⟨by simp [State.underrun], ?_⟩
    exact (respond_slotBasis _ _ _ _).trans ((listIf_slotBasis _ _ _).trans (setService_slotBasis s d _ rfl))
  unfold State.deliver
  cases t with
  | plain =>
    dsimp only
    split
    · exact snoop _ _ _
    · exact issue _ _
  | equalise _ => exact issue _ _
  | talkthrough _ d w frame =>
    dsimp only
    split
    · exact underrun d
    · exact issue _ _
  | mix v => exact ⟨(issue _ _).1.trans (clip v).1, (issue _ _).2.trans (clip v).2⟩

/-- A held read that is released leaves the slots and the basis of an allocation alone (R75). -/
theorem releaseRead_leaves (n : Fin 16) (s : State) (m : Fin 16) :
    (State.releaseRead n s m).slots = s.slots ∧ (State.releaseRead n s m).slotBasis = s.slotBasis := by
  have sent (a : Access) (h : WinHit) : (s.sendThrough m a h .plain true).slots = s.slots ∧
      (s.sendThrough m a h .plain true).slotBasis = s.slotBasis := by
    unfold State.sendThrough State.respondDropped
    dsimp only
    split
    · simp [deliver_leaves]
    · simp
    · simp
  unfold State.releaseRead
  split
  · split
    · exact sent _ _
    · exact ⟨rfl, rfl⟩
  · exact ⟨rfl, rfl⟩

/-! ## The end of a flush -/

/-- The slot of a flush that ends is FREE, its saturations and power recorded, before the reads held on it go on
(R73 steps 1 to 3). -/
def State.flushRecorded (s : State) (n : Fin 16) : State :=
  let t := s.slots.get n
  let e := s.services.get t.service
  (((s.setService t.service
    { e with saturated := bumpBy t.satCount e.saturated, lastPower := flushedPower t.acc }).list
      (.service t.service)).setSlot n { t with state := .free, claimed := false, held := [], flush := none }).list (.slot n)

theorem freeAfterFlush_eq (s : State) (n : Fin 16) :
    s.freeAfterFlush n = (s.slots.get n).held.foldl (State.releaseRead n) (s.flushRecorded n) := rfl

@[simp] theorem flushRecorded_slotBasis (s : State) (n : Fin 16) : (s.flushRecorded n).slotBasis = s.slotBasis :=
  setService_slotBasis s _ _ rfl

@[simp] theorem freeAfterFlush_slotBasis (s : State) (n : Fin 16) : (s.freeAfterFlush n).slotBasis = s.slotBasis :=
  (foldl_keeps State.slotBasis _ (fun u m => (releaseRead_leaves n u m).2) _ _).trans (flushRecorded_slotBasis s n)

/-- The slot of a flush that has ended is FREE, and so it is not complete (R73). -/
theorem freeAfterFlush_slot (s : State) (n : Fin 16) : ((s.freeAfterFlush n).slots.get n).state = .free := by
  have slots : (s.freeAfterFlush n).slots = (s.flushRecorded n).slots :=
    foldl_keeps State.slots _ (fun u m => (releaseRead_leaves n u m).1) _ _
  rw [slots]
  simp [State.flushRecorded]

@[simp] theorem dropWaiting_slots (s : State) (m : Fin 16) : (s.dropWaiting m).slots = s.slots := by
  unfold State.dropWaiting State.countLate
  split
  · simp
  · rfl

theorem flushedPower_eq (acc : List Lanes) : flushedPower acc = (acc.map fun x =>
    (clampLane x.lo * clampLane x.lo + clampLane x.hi * clampLane x.hi).toNat).sum / 65536 := by
  unfold flushedPower powerIndex powerOf
  rw [List.map_map]
  rfl

/-- A flush error counted just before the end of the flush is recorded with it (R45, R73). -/
theorem countFlushError_flushRecorded (s : State) (n : Fin 16) :
    (s.countFlushError (s.slots.get n).service).flushRecorded n =
      let t := s.slots.get n
      let v := s.services.get t.service
      (((s.setService t.service
        { v with
          flushErrors := bump v.flushErrors
          saturated := bumpBy t.satCount v.saturated
          lastPower := flushedPower t.acc }).list (.service t.service)).setSlot n
        { t with state := .free, claimed := false, held := [], flush := none }).list (.slot n) := by
  have slots : (s.countFlushError (s.slots.get n).service).slots = s.slots := by simp [State.countFlushError]
  have entry : (s.countFlushError (s.slots.get n).service).services.get (s.slots.get n).service =
      { s.services.get (s.slots.get n).service with
        flushErrors := bump (s.services.get (s.slots.get n).service).flushErrors } := by
    simp [State.countFlushError]
  unfold State.flushRecorded
  rw [slots]
  dsimp only
  rw [entry]
  unfold State.countFlushError
  rw [setService_listIf_setService_list]

/-- What has become of the flush bursts of a slot makes no difference to the record of its end. -/
theorem setSlot_flushRecorded (s : State) (n : Fin 16) (t : Slot) (f : Option Flush) :
    (s.setSlot n { t with flush := f }).flushRecorded n =
      let v := s.services.get t.service
      (((s.setService t.service
        { v with saturated := bumpBy t.satCount v.saturated, lastPower := flushedPower t.acc }).list
          (.service t.service)).setSlot n { t with state := .free, claimed := false, held := [], flush := none }).list
        (.slot n) := by
  have slot : (s.setSlot n { t with flush := f }).slots.get n = { t with flush := f } :=
    (setAt_get _ _ _ _).trans (if_pos rfl)
  unfold State.flushRecorded
  rw [slot]
  simp only [State.setSlot_services, setSlot_setService_list_setSlot]

/-- What follows the recorded end of a flush of slot `n`, `freed` being the part with the slot FREE and the held reads gone
on: nothing; or the pending allocation that claimed the slot is dropped as late, or served from what `s` holds and its
slot flushed if it is complete at once (R55, R31, R68). `P` holds of the state that this comes to. -/
def State.EndsFrom (s freed : State) (n : Fin 16) (P : State → Prop) : Prop :=
  ((∀ p ∈ s.allocs, p.slot ≠ n) → P freed) ∧
  ∀ p, s.allocs.find? (fun q => q.slot == n) = some p →
    let rest : State := { freed with allocs := s.allocs.filter (fun q => q != p) }
    ((s.windows.get p.window).enable = false → P (p.writers.foldl State.dropWaiting rest)) ∧
    ((s.windows.get p.window).enable = true →
      let w := p.writers.foldl (State.contributeWaiting n) ((rest.setSlot n (s.freshSlot p.window p.frame)).list (.slot n))
      ((w.slots.get n).isComplete = false → P w) ∧
      ((w.slots.get n).isComplete = true → P (w.startFlush n .complete)))

/-- The end of a flush comes to what `EndsFrom` says, read from any state with the same pending allocations and the same
basis of an allocation. -/
theorem flushEnds_endsFrom {s u : State} {n : Fin 16} {P : State → Prop} (allocs : u.allocs = s.allocs)
    (basis : u.slotBasis = s.slotBasis) (h : P (u.flushEnds n)) : s.EndsFrom (u.freeAfterFlush n) n P := by
  have claim : (u.freeAfterFlush n).claimOf n = s.allocs.find? (fun q => q.slot == n) := by
    unfold State.claimOf
    rw [State.freeAfterFlush_allocs, allocs]
  rw [flushEnds_eq, claim] at h
  refine ⟨fun unclaimed => ?_, fun p found => ?_⟩
  · have nobody : s.allocs.find? (fun q => q.slot == n) = none :=
      List.find?_eq_none.mpr fun p hp => by simpa using unclaimed p hp
    rw [nobody] at h
    exact h
  · rw [found] at h
    intro rest
    have freed : (u.freeAfterFlush n).slotBasis = s.slotBasis := (freeAfterFlush_slotBasis u n).trans basis
    have slot : p.slot = n := beq_iff_eq.mp (List.find?_some found :)
    have ended : (u.freeAfterFlush n).endAlloc p = rest := by
      unfold State.endAlloc
      rw [State.freeAfterFlush_allocs, allocs]
    have windows : (u.freeAfterFlush n).windows = s.windows := slotBasis_windows freed
    have fresh : rest.freshSlot p.window p.frame = s.freshSlot p.window p.frame := freshSlot_congr freed _ _
    simp only [State.serveAlloc, windows, ended, slot, State.allocate, fresh] at h
    refine ⟨fun disabled => ?_, fun enabled => ?_⟩
    · rw [disabled, if_neg Bool.false_ne_true] at h
      have slots : (p.writers.foldl State.dropWaiting rest).slots = (u.freeAfterFlush n).slots :=
        foldl_keeps State.slots _ dropWaiting_slots _ _
      rw [State.checkComplete, slots, Slot.isComplete, freeAfterFlush_slot] at h
      exact h
    · rw [enabled, if_pos rfl] at h
      intro w
      refine ⟨fun incomplete => ?_, fun complete => ?_⟩
      · have stays : w.checkComplete n = w := if_neg (by rw [incomplete]; exact Bool.false_ne_true)
        exact stays ▸ h
      · have goes : w.checkComplete n = w.startFlush n .complete := if_pos complete
        exact goes ▸ h

end Sys2Proof.Machine
end

section
/-! The start and the refusal of a flush, and the answers to its bursts (R66, R67, R71 to R73, R45, R55). -/

namespace Sys2Proof.Machine

/-! ## The start of a flush by the translation of its window -/

/-- A slot that becomes FLUSHING leaves alone what its translation depends on, field by field (R69). -/
theorem enterFlushing_leaves (s : State) (n : Fin 16) (o : SlotOutcome) :
    (s.enterFlushing n o).windows = s.windows ∧ (∀ a, (s.enterFlushing n o).inRegion a = s.inRegion a) ∧
      (s.enterFlushing n o).cache = s.cache ∧ (s.enterFlushing n o).translations = s.translations ∧
      (s.enterFlushing n o).translationWaits = s.translationWaits := by
  have view := enterFlushing_translatorView s n o
  have straps : (s.enterFlushing n o).baseStraps = s.baseStraps := congrArg (·.1) view
  refine ⟨congrArg (·.2.1) view, fun a => ?_, congrArg (·.2.2.1) view, congrArg (·.2.2.2.1) view,
    congrArg (·.2.2.2.2) view⟩
  unfold State.inRegion State.regionBase
  rw [straps]

/-- How a flush goes on, by the translation in force for its window (R34, R35, R37, R40, R45, R71). -/
theorem startFlush_cases (s : State) (n : Fin 16) (o : SlotOutcome) :
    let w := (s.slots.get n).window
    let f := (s.slots.get n).frame
    let tr := (s.windows.get w).translation
    let entered := s.enterFlushing n o
    (tr.1 = false → s.inRegion (directFrame tr.2 f) = false →
      s.startFlush n o = entered.issueBursts n (directFrame tr.2 f)) ∧
    (tr.1 = false → s.inRegion (directFrame tr.2 f) = true →
      s.startFlush n o = (entered.raiseFault .unmapped 16 (directFrame tr.2 f) (some w)).flushRefused n) ∧
    (tr.1 = true → s.inRegion (mapEntryAddr tr.2 f) = true →
      s.startFlush n o = (entered.raiseFault .unmapped 16 (mapEntryAddr tr.2 f) (some w)).flushRefused n) ∧
    (tr.1 = true → s.inRegion (mapEntryAddr tr.2 f) = false → ∀ x, s.cached w f = some x →
      s.startFlush n o = (entered.touchCache x).issueBursts n x.phys) ∧
    (tr.1 = true → s.inRegion (mapEntryAddr tr.2 f) = false → s.cached w f = none →
      s.startFlush n o = entered.joinQueue
        { owner := .flush n, window := w, frame := f, mapAddr := mapEntryAddr tr.2 f, own := true }) := by
  intro w f tr entered
  obtain ⟨windows, region, cache, -, -⟩ := enterFlushing_leaves s n o
  have translation : (entered.windows.get w).translation = tr := by rw [windows]
  have cached : entered.cached w f = s.cached w f := by unfold State.cached; rw [cache]
  have refused (a : Addr) (h : entered.translate (.flush n) w f none true =
      (.refused, entered.raiseFault .unmapped 16 a (some w))) :
      s.startFlush n o = (entered.raiseFault .unmapped 16 a (some w)).flushRefused n := startFlush_of_refused h
  exact ⟨fun direct outside =>
      startFlush_of_given (translate_direct _ _ _ translation direct ((region _).trans outside)),
    fun direct inside => refused _ (translate_direct_refused _ _ _ translation direct ((region _).trans inside)),
    fun mapped inside => refused _ (translate_mapped_refused _ _ _ translation mapped ((region _).trans inside)),
    fun mapped outside x hit =>
      startFlush_of_given (translate_hit _ _ _ translation mapped ((region _).trans outside) (cached.trans hit)),
    fun mapped outside miss =>
      startFlush_of_waiting (translate_miss _ _ _ translation mapped ((region _).trans outside) (cached.trans miss))⟩

/-! ## The refusal of a flush -/

/-- The end of a refused flush, before a pending allocation is served: the flush error is recorded with it (R45, R73). -/
theorem countFlushError_freeAfterFlush (s : State) (n : Fin 16) :
    (s.countFlushError (s.slots.get n).service).freeAfterFlush n = (s.slots.get n).held.foldl (State.releaseRead n)
      ((s.countFlushError (s.slots.get n).service).flushRecorded n) := by
  have slots : (s.countFlushError (s.slots.get n).service).slots = s.slots := by simp [State.countFlushError]
  rw [freeAfterFlush_eq, slots]

theorem flushRefused_endsFrom (s : State) (n : Fin 16) :
    s.EndsFrom ((s.countFlushError (s.slots.get n).service).freeAfterFlush n) n (fun t => s.flushRefused n = t) :=
  flushEnds_endsFrom (State.countFlushError_allocs _ _) (countFlushError_slotBasis _ _) rfl

/-- Settles O36: the translation decides how a flush goes on; the snoops of its bursts have one closed form; a refusal is an
end of the flush with its error counted. -/
theorem flushStarts : Obligations.FlushStarts := by
  refine ⟨fun s n d rest filling timer past => exec_deadlineExpiry rest filling timer past, fun s n => ?_,
    fun s n o => ?_, fun s n phys => ?_, fun s n => ?_⟩
  · have complete := Slot.isComplete_iff (s.slots.get n)
    exact ⟨fun h => checkComplete_of_complete (complete.mpr h), fun h => checkComplete_of_incomplete (mt complete.mp h)⟩
  · obtain ⟨given, refused, mapRefused, hit, miss⟩ := startFlush_cases s n o
    obtain ⟨-, -, cache, translations, waits⟩ := enterFlushing_leaves s n o
    refine ⟨given, refused, mapRefused, fun mapped outside x found => ?_, fun mapped outside none => ?_⟩
    · rw [hit mapped outside x found, State.touchCache, cache]
    · rw [miss mapped outside none, joinQueue_eq, translations, waits]
      rfl
  · refine ⟨?_, mem_issueBursts_cache s n phys, ?_, issueBursts_fetch s n phys, mem_issueBursts_hazards s n phys,
      fun k => ⟨_, flushBurst_mem_memoryPort s n phys k, rfl, rfl, rfl, rfl, fun i hi => flushBurst_data _ phys k hi⟩⟩
    · rw [issueBursts_eq]
    · rw [issueBursts_eq]
      exact Option.isSome_map
  · intro t v freed
    have ends := flushRefused_endsFrom s n
    rw [countFlushError_freeAfterFlush, countFlushError_flushRecorded] at ends
    dsimp only at ends
    rw [flushedPower_eq] at ends
    exact ends

end Sys2Proof.Machine
end

section
/-! The answers to the bursts of a flush (R72, R73, R81), and the writes that waited on the slot that it frees (R55, R59 to
R61). -/

namespace Sys2Proof.Machine

/-! ## The answer to a burst -/

theorem exec_flushBurstAnswer {s : State} (rest : s.AtRest) (n k : Fin 16) (ok : Bool) :
    exec (.flushBurstAnswer n k ok) s = .next (s.answerBurst n k ok).settle := by
  show done (s.catchUp.answerBurst n k ok) = _
  rw [catchUp_rest s rest]
  rfl

/-- The answer of a burst from before a soft reset is dropped (R81; log 25). -/
theorem answerBurst_stale {s : State} {n k : Fin 16} {b : StaleBurst} (ok : Bool) (h : s.staleBurst n k = some b) :
    s.answerBurst n k ok = { s with staleBursts := s.staleBursts.erase b } := by
  unfold State.answerBurst
  rw [h]

/-- An answer for which no burst from before a soft reset is out goes to the slot's flush (R72). -/
theorem answerBurst_live {s : State} {n k : Fin 16} {f : Flush} (ok : Bool)
    (fresh : ∀ b ∈ s.staleBursts, ¬(b.slot = n ∧ b.burst = k)) (flush : (s.slots.get n).flush = some f)
    (out : k ∈ f.left) : s.answerBurst n k ok = s.answerFlush n k f ok := by
  have none : s.staleBurst n k = none := List.find?_eq_none.mpr fun b hb => by simpa using fresh b hb
  unfold State.answerBurst
  rw [none, flush]
  exact if_pos (List.contains_iff_mem.mpr out)

/-- The part once the answer to burst `k` of a flush is noted, before the flush goes on or ends (R72): the hazards of the
burst end, and the first ERROR is recorded and counted. -/
def State.burstNoted (s : State) (n k : Fin 16) (f : Flush) (ok : Bool) : State :=
  if !ok && !f.failed then
    ((s.endHazards (.flush n k)).raiseFault .flushError Config.ownNumber (burstAddr f.phys k)
      (some (s.slots.get n).window)).countFlushError (s.slots.get n).service
  else s.endHazards (.flush n k)

theorem answerFlush_eq (s : State) (n k : Fin 16) (f : Flush) (ok : Bool) :
    s.answerFlush n k f ok =
      let left := f.left.filter (fun x => x != k)
      let next := (s.burstNoted n k f ok).setSlot n
        { s.slots.get n with flush := some { f with left := left, failed := f.failed || !ok } }
      if left.isEmpty then next.flushEnds n else next := rfl

theorem burstNoted_allocs (s : State) (n k : Fin 16) (f : Flush) (ok : Bool) :
    (s.burstNoted n k f ok).allocs = s.allocs := by
  have ended : (s.endHazards (.flush n k)).allocs = s.allocs := rfl
  unfold State.burstNoted
  split <;> simp [ended]

theorem burstNoted_slotBasis (s : State) (n k : Fin 16) (f : Flush) (ok : Bool) :
    (s.burstNoted n k f ok).slotBasis = s.slotBasis := by
  have ended : (s.endHazards (.flush n k)).slotBasis = s.slotBasis := rfl
  unfold State.burstNoted
  split <;> simp [ended]

/-- The noted answer in the terms of the manual: the fault, then the flush error of the slot's service (R72, R78). -/
theorem burstNoted_eq (s : State) (n k : Fin 16) (f : Flush) (ok : Bool) :
    s.burstNoted n k f ok =
      let t := s.slots.get n
      let v := s.services.get t.service
      let s1 : State := { s with hazards := s.hazards.filter (fun h => h.source != .flush n k) }
      if ok = false ∧ f.failed = false then
        ((s1.raiseFault .flushError 16 (f.phys + BitVec.ofNat 32 (64 * k.val)) (some t.window)).setService t.service
          { v with flushErrors := min (v.flushErrors + 1) 65535 }).listIf (v.flushErrors < 65535) (.service t.service)
      else s1 := by
  have fails : (!ok && !f.failed) = true ↔ ok = false ∧ f.failed = false := by simp
  have services : (s.endHazards (.flush n k)).services = s.services := rfl
  unfold State.burstNoted State.countFlushError
  rw [raiseFault_services, services]
  exact if_congr fails rfl rfl

/-- The end of a flush by the last answer, before a pending allocation is served (R73). -/
theorem setSlot_freeAfterFlush (s : State) (n : Fin 16) (t : Slot) (f : Option Flush) :
    (s.setSlot n { t with flush := f }).freeAfterFlush n = t.held.foldl (State.releaseRead n)
      ((s.setSlot n { t with flush := f }).flushRecorded n) := by
  have slot : (s.setSlot n { t with flush := f }).slots.get n = { t with flush := f } :=
    (setAt_get _ _ _ _).trans (if_pos rfl)
  rw [freeAfterFlush_eq, slot]

/-! ## The writes that waited -/

theorem dropWaiting_eq {s : State} {m : Fin 16} {a : Access} {hit : WinHit} {g : Fin 12} (front : s.front m = some a)
    (stage : s.stage m = .heldPending hit) (segment : segOf m = some g) :
    s.dropWaiting m = (s.countLate g).respond m true [] := by
  unfold State.dropWaiting
  rw [front, stage, segment]

theorem contributeWaiting_eq {s : State} {m : Fin 16} {a : Access} {hit : WinHit} {g : Fin 12} (n : Fin 16)
    (front : s.front m = some a) (stage : s.stage m = .heldPending hit) (segment : segOf m = some g) :
    State.contributeWaiting n s m = (s.contribute n g a hit.offset).2.respond m true [] := by
  unfold State.contributeWaiting
  rw [front, stage, segment]

/-- What a burst judged as a contribution does to the part (R59 to R61), as one case after the other. -/
theorem contribute_eq (s : State) (n : Fin 16) (g : Fin 12) (a : Access) (o : Nat) :
    (s.contribute n g a o).2 =
      let t := s.slots.get n
      let c := t.contribs.get g
      let e := s.segments.get g
      let taken := (s.setSlot n (t.accept g e.uplinkGain (e.gates.get t.service) o (Access.lanes a))).list (.slot n)
      if c.state = .done ∨ c.state = .broken then s.countSequence g
      else if g ∉ t.expected then s.countLate g
      else if o ≠ c.next then ((s.setSlot n (t.breakContrib g)).list (.slot n)).countSequence g
      else if c.next + a.len < 256 then taken
      else taken.updateGate n g := by
  unfold State.contribute Slot.judge
  dsimp only
  by_cases closed : ((s.slots.get n).contribs.get g).state = .done ∨ ((s.slots.get n).contribs.get g).state = .broken
  · rw [if_pos closed, if_pos closed]
  rw [if_neg closed, if_neg closed]
  by_cases expected : g ∈ (s.slots.get n).expected
  · have contained : ¬(!(s.slots.get n).expected.contains g) = true := by simp [expected]
    rw [if_neg contained, if_neg (not_not.mpr expected)]
    by_cases next : o ≠ ((s.slots.get n).contribs.get g).next
    · rw [if_pos next, if_pos next]
    rw [if_neg next, if_neg next]
    by_cases short : ((s.slots.get n).contribs.get g).next + a.len < 256
    · simp [short]
    · have full : 256 ≤ ((s.slots.get n).contribs.get g).next + a.len := Nat.not_lt.mp short
      simp [short, full]
  · have absent : (!(s.slots.get n).expected.contains g) = true := by simp [expected]
    rw [if_pos absent, if_pos expected]

/-- An accepted burst in plain terms: the contribution begins with the gain and the gate as they stand, and is DONE at its
256th word (R60). -/
theorem accept_eq (t : Slot) (g : Fin 12) (uplinkGain : Nat) (gate : Gate) (o n : Nat) (xs : List Lanes)
    (length : xs.length = n)
    (live : ¬((t.contribs.get g).state = .done ∨ (t.contribs.get g).state = .broken)) :
    t.accept g uplinkGain gate o xs =
      let c := t.contribs.get g
      let gain := if c.state = .none then uplinkGain else c.gain
      let gated := if c.state = .none then !gate.isOpen else c.gated
      { t with
        acc := if gated then t.acc else addBurst t.acc o gain xs
        contribs := setAt t.contribs g
          { state := if c.next + n < 256 then .filling else .done, next := c.next + n, gated := gated, gain := gain,
            power := c.power + powerOf xs } } := by
  have ends : (if 256 ≤ (t.contribs.get g).next + n then ContribState.done else .filling) =
      if (t.contribs.get g).next + n < 256 then .filling else .done := by
    by_cases short : (t.contribs.get g).next + n < 256
    · rw [if_pos short, if_neg (by omega)]
    · rw [if_neg short, if_pos (by omega)]
  unfold Slot.accept Contrib.begin
  cases state : (t.contribs.get g).state with
  | none => simp [length, state, ends]
  | filling => simp [length, state, ends]
  | done => exact absurd (.inl state) live
  | broken => exact absurd (.inr state) live

/-- The gate of a contribution that the slot `t` has just completed (R61). -/
theorem updateGate_setSlot_list (s : State) (n : Fin 16) (g : Fin 12) (t : Slot) :
    ((s.setSlot n t).list (.slot n)).updateGate n g =
      let v := s.services.get t.service
      let e := s.segments.get g
      let gate := e.gates.get t.service
      let new := gate.update (powerIndex (t.contribs.get g).power) v.openThreshold v.closeThreshold v.holdFrames
      (((s.setSlot n t).list (.slot n)).setSegment g { e with gates := setAt e.gates t.service new }).listIf (new != gate)
        (.segment g) := by
  unfold State.updateGate
  simp only [State.list_slots, State.setSlot_slots, setAt_get, if_true, State.list_services, State.setSlot_services,
    State.list_segments, State.setSlot_segments]

/-- A well-formed write has operand lanes for each of its words (R16). -/
theorem lanes_length {a : Access} (write : a.dir = .write) (formed : a.wellFormed = true) :
    (Access.lanes a).length = a.len := by
  have fits : a.dataFits = true := (Bool.and_eq_true_iff.mp formed).2
  have data : a.data.length = a.be.length := by simpa [Access.dataFits, write] using fits
  simp [Access.lanes, Access.len, data]

/-- Settles O37: a stale answer is dropped; a live one is noted, and the last ends the flush; a write that waited is dropped
or contributes. -/
theorem flushBurstAnswered : Obligations.FlushBurstAnswered := by
  refine ⟨fun s n k ok b rest stale => ?_, fun s n k ok f rest fresh flush out => ?_,
    fun s n m g a hit front stage segment write formed => ?_⟩
  · rw [exec_flushBurstAnswer rest, answerBurst_stale ok stale]
  · intro ends t v s1 s2 left
    have noted : s.burstNoted n k f ok = s2 := burstNoted_eq s n k f ok
    have answered := exec_flushBurstAnswer rest n k ok
    rw [answerBurst_live ok fresh flush out, answerFlush_eq, noted] at answered
    refine ⟨fun more => ?_, fun last => ?_⟩
    · have some : left.isEmpty = false := by simpa using more
      exact answered.trans (by rw [if_neg (by rw [some]; exact Bool.false_ne_true)])
    · have ended : ends ((s2.setSlot n
          { t with flush := some { f with left := left, failed := f.failed || !ok } }).flushEnds n) :=
        answered.trans (by rw [if_pos (List.isEmpty_iff.mpr last)])
      have allocs : s2.allocs = s.allocs := by rw [← noted, burstNoted_allocs]
      have basis : s2.slotBasis = s.slotBasis := by rw [← noted, burstNoted_slotBasis]
      clear_value s2
      have goes := flushEnds_endsFrom ((State.setSlot_allocs _ _ _).trans allocs)
        ((setSlot_slotBasis _ _ _).trans basis) ended
      rw [setSlot_freeAfterFlush, setSlot_flushRecorded] at goes
      dsimp only at goes
      rw [flushedPower_eq] at goes
      exact goes
  · intro t c e sequence late xs gate gain gated d taken v gate'
    refine ⟨dropWaiting_eq front stage segment, ?_⟩
    rw [contributeWaiting_eq n front stage segment, contribute_eq]
    refine congrArg (fun u : State => u.respond m true []) ?_
    by_cases closed : c.state = .done ∨ c.state = .broken
    · exact (if_pos closed).trans (if_pos closed).symm
    have accepted : t.accept g e.uplinkGain gate hit.offset (Access.lanes a) = { t with
        acc := if gated then t.acc else addBurst t.acc hit.offset gain xs
        contribs := setAt t.contribs g d } := accept_eq t g _ gate _ _ _ (lanes_length write formed) closed
    have power : (({ t with
        acc := if gated then t.acc else addBurst t.acc hit.offset gain xs
        contribs := setAt t.contribs g d } : Slot).contribs.get g).power = d.power := by rw [setAt_get, if_pos rfl]
    refine (if_neg closed).trans (Eq.trans ?_ (if_neg closed).symm)
    refine if_congr Iff.rfl rfl (if_congr Iff.rfl rfl (if_congr Iff.rfl ?_ ?_))
    · rw [accepted]
    · rw [accepted, updateGate_setSlot_list, power]
      rfl

end Sys2Proof.Machine
end

section
/-! An access of a sample window at its turn, and the translation that it asks for (R16, R34 to R37, R40, R43, R45, R74, R75,
R82 to R88, R134, R136). -/

namespace Sys2Proof.Machine

/-! ## The commands at their turn -/

section
variable {s : State} {m : Fin 16} {a : Access} {hit : WinHit}

theorem asWindow_at_turn {r : Role} {d : Dir} (turn : s.Turn m a (.window hit)) (role : hit.role = r) (dir : a.dir = d)
    (f : State → Access → WinHit → State) : s.asWindow m r d f = f s.popDue a hit := by
  subst role dir
  exact asWindow_turn turn f

theorem exec_unwindowedAccess (turn : s.Turn m a .unwindowed) :
    exec (.unwindowedAccess m) s = .next (s.popDue.passUnchanged m a).settle :=
  congrArg done (asUnwindowed_turn turn fun s a => s.treatUnwindowed m a)

theorem exec_uplinkWrite (turn : s.Turn m a (.window hit)) (role : hit.role = .uplink) (dir : a.dir = .write) :
    exec (.uplinkWrite m) s = .next (s.popDue.treatUplinkWrite m a hit).settle :=
  congrArg done (asWindow_at_turn turn role dir fun s a hit => s.treatUplinkWrite m a hit)

theorem exec_uplinkRead (turn : s.Turn m a (.window hit)) (role : hit.role = .uplink) (dir : a.dir = .read) :
    exec (.uplinkRead m) s = .next (s.popDue.treatUplinkRead m a hit).settle :=
  congrArg done (asWindow_at_turn turn role dir fun s a hit => s.treatUplinkRead m a hit)

theorem exec_downlinkWrite (turn : s.Turn m a (.window hit)) (role : hit.role = .downlink) (dir : a.dir = .write) :
    exec (.downlinkWrite m) s = .next (s.popDue.treatDownlinkWrite m a hit).settle :=
  congrArg done (asWindow_at_turn turn role dir fun s a hit => s.treatDownlinkWrite m a hit)

theorem exec_downlinkRead (turn : s.Turn m a (.window hit)) (role : hit.role = .downlink) (dir : a.dir = .read) :
    exec (.downlinkRead m) s = .next (s.popDue.treatDownlinkRead m a hit).settle :=
  congrArg done (asWindow_at_turn turn role dir fun s a hit => s.treatDownlinkRead m a hit)

theorem exec_programWrite (turn : s.Turn m a (.window hit)) (role : hit.role = .program) (dir : a.dir = .write) :
    exec (.programWrite m) s = .next (s.popDue.treatProgramWrite m a hit).settle :=
  congrArg done (asWindow_at_turn turn role dir fun s a hit => s.treatProgramWrite m a hit)

theorem exec_programRead (turn : s.Turn m a (.window hit)) (role : hit.role = .program) (dir : a.dir = .read) :
    exec (.programRead m) s = .next (s.popDue.treatProgramRead m a hit).settle :=
  congrArg done (asWindow_at_turn turn role dir fun s a hit => s.treatProgramRead m a hit)

end

/-! ## An access that asks for its translation -/

theorem respondDropped_eq (s : State) (m : Fin 16) (a : Access) :
    s.respondDropped m a = s.respond m true (if a.dir = .read then List.replicate a.len 0 else []) := by
  unfold State.respondDropped
  cases a.dir <;> rfl

theorem respondDropped_write {s : State} {m : Fin 16} {a : Access} (write : a.dir = .write) :
    s.respondDropped m a = s.respond m true [] := by
  rw [respondDropped_eq, write]
  rfl

theorem joinQueue_place {s : State} (r : TransReq) (place : s.translationWaits = [] ∧ s.translations.length < 8) :
    s.joinQueue r = { s with translations := s.translations ++ [r] } := by
  rw [joinQueue_eq, if_pos place]

theorem joinQueue_full {s : State} (r : TransReq) (full : s.translationWaits ≠ [] ∨ 8 ≤ s.translations.length) :
    s.joinQueue r = { s with translationWaits := s.translationWaits ++ [r] } := by
  have noPlace : ¬(s.translationWaits = [] ∧ s.translations.length < 8) := fun place =>
    full.elim (fun waits => waits place.1) (fun long => absurd place.2 (Nat.not_lt.mpr long))
  rw [joinQueue_eq, if_neg noPlace]

/-- How a sample-window access goes on, by the translation in force for the window that its treatment names (R34 to R37, R40,
R45). -/
theorem sendThrough_cases (s : State) (m : Fin 16) (a : Access) (hit : WinHit) (t : Treatment) (own : Bool) :
    let w := (t.target hit).1
    let f := (t.target hit).2
    let tr := (s.windows.get w).translation
    let r : TransReq :=
      { owner := .master m, window := w, frame := f, mapAddr := mapEntryAddr tr.2 f, own := t.ownRequest }
    (tr.1 = false → s.inRegion (directFrame tr.2 f) = false →
      s.sendThrough m a hit t own = s.deliver m a hit t own (directFrame tr.2 f)) ∧
    (tr.1 = false → s.inRegion (directFrame tr.2 f) = true →
      s.sendThrough m a hit t own = (s.raiseFault .unmapped m.val a.addr (some w)).respondDropped m a) ∧
    (tr.1 = true → s.inRegion (mapEntryAddr tr.2 f) = true →
      s.sendThrough m a hit t own = (s.raiseFault .unmapped m.val (mapEntryAddr tr.2 f) (some w)).respondDropped m a) ∧
    (tr.1 = true → s.inRegion (mapEntryAddr tr.2 f) = false →
      (∀ x, s.cached w f = some x → s.sendThrough m a hit t own = (s.touchCache x).deliver m a hit t own x.phys) ∧
      (s.cached w f = none →
        (s.translationWaits = [] ∧ s.translations.length < 8 → s.sendThrough m a hit t own =
          ({ s with translations := s.translations ++ [r] } : State).setStage m (.translating hit t own)) ∧
        (s.translationWaits ≠ [] ∨ 8 ≤ s.translations.length → s.sendThrough m a hit t own =
          ({ s with translationWaits := s.translationWaits ++ [r] } : State).setStage m (.translating hit t own)))) := by
  intro w f tr r
  have answered {x : Translated × State} (h : s.translate (.master m) w f (some a.addr) t.ownRequest = x) :
      s.sendThrough m a hit t own = match x.1 with
        | .given p => x.2.deliver m a hit t own p
        | .refused => x.2.respondDropped m a
        | .waiting => x.2.setStage m (.translating hit t own) := h ▸ rfl
  refine ⟨fun direct outside => ?_, fun direct inside => ?_, fun mapped inside => ?_, fun mapped outside =>
    ⟨fun x cached => ?_, fun miss => ?_⟩⟩
  · exact answered (translate_direct _ _ _ rfl direct outside)
  · exact answered (translate_direct_refused _ _ _ rfl direct inside)
  · exact answered (translate_mapped_refused _ _ _ rfl mapped inside)
  · exact answered (translate_hit _ _ _ rfl mapped outside cached)
  · have waits := answered (translate_miss _ _ _ rfl mapped outside miss)
    exact ⟨fun place => waits.trans (congrArg (fun u : State => u.setStage m _) (joinQueue_place r place)),
      fun full => waits.trans (congrArg (fun u : State => u.setStage m _) (joinQueue_full r full))⟩

/-! ## An access whose translation is given -/

/-- A plain access goes to memory, a write snooped at its translated address (R16, R43). -/
theorem deliver_plain (s : State) (m : Fin 16) (a : Access) (hit : WinHit) (own : Bool) (phys : Addr) :
    s.deliver m a hit .plain own phys =
      (if a.dir = .write then s.snoop (.master m) (wordAddr phys hit.offset) a.len else s).setStage m (.issued
        { hit := some hit, port := onBehalf (if own then 16 else m.val) a (wordAddr phys hit.offset), treat := .plain,
          answer := none, clip := .absent, changed := [] }) := by
  unfold State.deliver
  cases a.dir <;> rfl

theorem Slot.holds_iff (t : Slot) (w : Fin 16) (f : Nat) :
    t.holds w f = true ↔ t.state ≠ .free ∧ t.window = w ∧ t.frame = f := by
  simp [Slot.holds, and_assoc]

theorem State.slotOf_eq_none_iff (s : State) (w : Fin 16) (f : Nat) : s.slotOf w f = none ↔
    ¬∃ n, (s.slots.get n).state ≠ .free ∧ (s.slots.get n).window = w ∧ (s.slots.get n).frame = f := by
  unfold State.slotOf
  rw [List.find?_eq_none, not_exists]
  exact forall_congr' fun n => ⟨fun h k => h (List.mem_finRange n) ((Slot.holds_iff _ w f).mpr k),
    fun h _ k => h ((Slot.holds_iff _ w f).mp k)⟩

/-- A talkthrough read whose source frame a slot holds is an underrun (R87, R92). -/
theorem deliver_talkthrough_held {s : State} {w : Fin 16} {f : Nat} (m : Fin 16) (a : Access) (hit : WinHit) (own : Bool)
    (phys : Addr) (gain : Nat) (d : Fin 8) (held : s.slotOf w f ≠ none) :
    s.deliver m a hit (.talkthrough gain d w f) own phys = s.underrun m a d := by
  unfold State.deliver
  obtain ⟨n, found⟩ := Option.ne_none_iff_exists'.mp held
  simp [found]

/-- A talkthrough read whose source frame no slot holds is a read of the part's own (R16, R88). -/
theorem deliver_talkthrough_unheld {s : State} {w : Fin 16} {f : Nat} (m : Fin 16) (a : Access) (hit : WinHit) (own : Bool)
    (phys : Addr) (gain : Nat) (d : Fin 8) (unheld : s.slotOf w f = none) :
    s.deliver m a hit (.talkthrough gain d w f) own phys = s.setStage m (.issued
      { hit := some hit, port := ownRead (wordAddr phys hit.offset) a.len, treat := .talkthrough gain d w f,
        answer := none, clip := .absent, changed := [] }) := by
  unfold State.deliver
  simp [unheld, State.issue]

/-- No clip read is needed beside a read mixed with no cue (R134). -/
theorem issueClip_none (s : State) (hit : WinHit) (n : Nat) {v : MixValues} (none : v.clip = none) :
    s.issueClip hit n v = (.absent, s) := by
  unfold State.issueClip
  rw [none]

/-- A clip frame in the control region is not read, and raises CLIP_ERROR (R134; log 28). -/
theorem issueClip_inside {s : State} (hit : WinHit) (n : Nat) {v : MixValues} {c : Addr} (clip : v.clip = some c)
    (inside : s.inRegion c = true) :
    s.issueClip hit n v = (.absent, s.raiseFault .clipError 16 (wordAddr c hit.offset) (some hit.window)) := by
  unfold State.issueClip
  rw [clip]
  exact if_pos inside

/-- The clip read stands beside the programme read, at the same word offsets (R134). -/
theorem issueClip_outside {s : State} (hit : WinHit) (n : Nat) {v : MixValues} {c : Addr} (clip : v.clip = some c)
    (outside : s.inRegion c = false) :
    s.issueClip hit n v = (.issued (ownRead (wordAddr c hit.offset) n), s) := by
  unfold State.issueClip
  rw [clip]
  exact if_neg (by rw [outside]; exact Bool.false_ne_true)

/-- A mixed read goes to memory with what has become of its clip read beside it (R134). -/
theorem deliver_mix {s u : State} {hit : WinHit} {a : Access} {v : MixValues} {clip : ClipRead} (m : Fin 16) (own : Bool)
    (phys : Addr) (beside : s.issueClip hit a.len v = (clip, u)) :
    s.deliver m a hit (.mix v) own phys = u.setStage m (.issued
      { hit := some hit, port := onBehalf (if own then 16 else m.val) a (wordAddr phys hit.offset), treat := .mix v,
        answer := none, clip := clip, changed := [] }) := by
  unfold State.deliver
  simp only [beside]
  rfl

/-- Settles O27: the translation's four answers, then what each treatment makes of a given one. -/
theorem readsSentThrough : Obligations.ReadsSentThrough := by
  refine ⟨fun s m a hit t own => ?_, fun s m a hit own phys => ⟨deliver_plain s m a hit own phys, fun _ => rfl,
    fun g d w u => ⟨fun held => ?_, fun unheld => ?_⟩, fun v => ⟨fun none => ?_, fun c clip inside => ?_,
    fun c clip outside => ?_⟩⟩⟩
  · have answers := sendThrough_cases s m a hit t own
    simp only [respondDropped_eq] at answers
    cases t <;> exact answers
  · exact deliver_talkthrough_held m a hit own phys g d fun none => (s.slotOf_eq_none_iff w u).mp none held
  · exact deliver_talkthrough_unheld m a hit own phys g d ((s.slotOf_eq_none_iff w u).mpr unheld)
  · exact deliver_mix m own phys (issueClip_none s hit a.len none)
  · exact deliver_mix m own phys (issueClip_inside hit a.len clip inside)
  · exact deliver_mix m own phys (issueClip_outside hit a.len clip outside)

/-! ## Traffic passed unchanged -/

/-- A command that sends an access through with its data unchanged, at its turn (R74, R82, R136). -/
theorem exec_sendsPlain {s : State} {m : Fin 16} {a : Access} {hit : WinHit} {c : Instr} (turn : s.Turn m a (.window hit))
    (kind : (c = .downlinkWrite m ∧ hit.role = .downlink ∧ a.dir = .write) ∨
      (c = .programWrite m ∧ hit.role = .program ∧ a.dir = .write) ∨
      (c = .downlinkRead m ∧ hit.role = .downlink ∧ a.dir = .read ∧ segOf m = none) ∨
      (c = .programRead m ∧ hit.role = .program ∧ a.dir = .read ∧ segOf m = none) ∨
      (c = .uplinkRead m ∧ hit.role = .uplink ∧ a.dir = .read ∧ s.slotOf hit.window hit.frame = none)) :
    exec c s = .next (s.popDue.sendThrough m a hit .plain false).settle := by
  rcases kind with ⟨rfl, role, dir⟩ | ⟨rfl, role, dir⟩ | ⟨rfl, role, dir, other⟩ | ⟨rfl, role, dir, other⟩ |
    ⟨rfl, role, dir, unheld⟩
  · exact exec_downlinkWrite turn role dir
  · exact exec_programWrite turn role dir
  · rw [exec_downlinkRead turn role dir, State.treatDownlinkRead, other]
  · rw [exec_programRead turn role dir, State.treatProgramRead, other]
  · have popped : s.popDue.slotOf hit.window hit.frame = none := unheld
    rw [exec_uplinkRead turn role dir, State.treatUplinkRead, popped]

/-- Settles O26: each of the five commands is a request for the translation, and a given one sends the access on as it is. -/
theorem unchangedTrafficPasses : Obligations.UnchangedTrafficPasses := by
  refine ⟨fun s m a turn => exec_unwindowedAccess turn, fun s m a hit c turn kind => ?_⟩
  intro s0 t sent frame entry ends
  have sends : exec c s = .next (s0.sendThrough m a hit .plain false).settle := exec_sendsPlain turn kind
  have answered {u : State} (h : s0.sendThrough m a hit .plain false = u) : ends u := h ▸ sends
  obtain ⟨direct, directRefused, mappedRefused, mapped⟩ := sendThrough_cases s0 m a hit .plain false
  refine ⟨fun isDirect outside => answered ((direct isDirect outside).trans (deliver_plain ..)),
    fun isDirect inside => answered (directRefused isDirect inside),
    fun isMapped inside => answered (mappedRefused isMapped inside), fun isMapped outside => ?_⟩
  obtain ⟨given, waits⟩ := mapped isMapped outside
  exact ⟨fun x cached => answered ((given x cached).trans (deliver_plain ..)), fun miss =>
    ⟨fun place => answered ((waits miss).1 place), fun full => answered ((waits miss).2 full)⟩⟩

/-! ## Reads held on a slot -/

/-- Settles O39: the read waits on the slot that holds its frame; released, it is sent through as a read of the part's own. -/
theorem holdReadWaits : Obligations.HoldReadWaits := by
  have released (s : State) (n m : Fin 16) (a : Access) (hit : WinHit) (front : s.front m = some a)
      (stage : s.stage m = .heldSlot n hit) : s.releaseRead n m = s.sendThrough m a hit .plain true := by
    unfold State.releaseRead
    rw [front, stage]
    exact if_pos rfl
  refine ⟨fun s m a hit n turn role read held hold => ?_, released, fun s n m a hit front stage read direct => ?_⟩
  · have popped : s.popDue.slotOf hit.window hit.frame = some n := held
    rw [exec_uplinkRead turn role read, State.treatUplinkRead, popped]
    exact congrArg done (if_neg (ne_true_of_eq_false hold))
  · have given := (sendThrough_cases s m a hit .plain true).1 direct.1 direct.2
    rw [released s n m a hit front stage, given, deliver_plain, read]
    simp only [onBehalf, read]
    rfl

/-! ## A segment's downlink reads -/

/-- The lowest-numbered source window is the one that talkthrough reads (R85). -/
theorem State.sourceWindow_eq_some_iff (s : State) (u : Fin 8) (w : Fin 16) :
    let isSource (x : Fin 16) : Prop := (s.windows.get x).enable = true ∧ (s.windows.get x).role = some .uplink ∧
      (s.windows.get x).service = u
    s.sourceWindow u = some w ↔ isSource w ∧ ∀ x, x < w → ¬isSource x := by
  intro isSource
  have holds (x : Fin 16) : ((s.windows.get x).enable && (s.windows.get x).role == some .uplink &&
      (s.windows.get x).service == u) = true ↔ isSource x := by simp [isSource, and_assoc]
  refine (find?_finRange_eq_some_iff _ w).trans (and_congr (holds w) ?_)
  exact forall_congr' fun x => imp_congr_right fun _ => not_congr (holds x)

theorem State.sourceWindow_eq_none_iff (s : State) (u : Fin 8) : s.sourceWindow u = none ↔
    ¬∃ w, (s.windows.get w).enable = true ∧ (s.windows.get w).role = some .uplink ∧ (s.windows.get w).service = u := by
  simp [State.sourceWindow, List.find?_eq_none]

/-- Without talkthrough a segment's downlink read is equalised (R83, R85). -/
theorem judgeDownlink_equalise {s : State} {hit : WinHit} (gain : Nat)
    (not : ¬(s.incident = true ∧ (s.services.get hit.service).talkthrough = true ∧
      s.sourceWindow (s.services.get hit.service).source ≠ none)) :
    s.judgeDownlink gain hit = .equalise gain := by
  unfold State.judgeDownlink
  dsimp only
  split
  · next talks =>
    obtain ⟨incident, talkthrough⟩ := Bool.and_eq_true_iff.mp talks
    split
    · next w found => exact absurd ⟨incident, talkthrough, by simp [found]⟩ not
    · rfl
  · rfl

/-- With talkthrough a segment's downlink read takes the source frame (R85, R86). -/
theorem judgeDownlink_talkthrough {s : State} {hit : WinHit} {w : Fin 16} (gain : Nat) (incident : s.incident = true)
    (talkthrough : (s.services.get hit.service).talkthrough = true)
    (source : s.sourceWindow (s.services.get hit.service).source = some w) :
    s.judgeDownlink gain hit = .talkthrough gain hit.service w
      (sourceFrame hit.frame (s.services.get hit.service).offset (s.windows.get w).frames) := by
  unfold State.judgeDownlink
  simp [incident, talkthrough, source]

section
variable {s : State} {m : Fin 16} {a : Access} {hit : WinHit} {g : Fin 12}

theorem treatDownlinkRead_equalise (segment : segOf m = some g)
    (judged : s.judgeDownlink (s.segments.get g).downlinkGain hit = .equalise (s.segments.get g).downlinkGain) :
    s.treatDownlinkRead m a hit = s.sendThrough m a hit (.equalise (s.segments.get g).downlinkGain) false := by
  unfold State.treatDownlinkRead
  simp only [segment, judged]

/-- A talkthrough read is an underrun where a slot holds the source frame, else it asks for the source's translation (R87). -/
theorem treatDownlinkRead_talkthrough {gain : Nat} {d : Fin 8} {w : Fin 16} {f : Nat} (segment : segOf m = some g)
    (judged : s.judgeDownlink (s.segments.get g).downlinkGain hit = .talkthrough gain d w f) :
    s.treatDownlinkRead m a hit = if s.slotOf w f = none then s.sendThrough m a hit (.talkthrough gain d w f) false
      else s.underrun m a d := by
  unfold State.treatDownlinkRead
  simp only [segment, judged]
  cases s.slotOf w f <;> rfl

end

/-- Settles O40: the source window decides between the equalised and the talkthrough read, the slots between the underrun and
the source read. -/
theorem downlinkReadJudged : Obligations.DownlinkReadJudged := by
  intro s m a hit g turn role read segment s0 ends gain d isSource at4
  have judges : ends (s0.treatDownlinkRead m a hit) := exec_downlinkRead turn role read
  have answered {u : State} (h : s0.treatDownlinkRead m a hit = u) : ends u := h ▸ judges
  refine ⟨fun noTalk => ?_, fun incident talkthrough w source lowest => ?_⟩
  · have judged : s0.judgeDownlink gain hit = .equalise gain := judgeDownlink_equalise gain
      fun ⟨incident, talkthrough, found⟩ => found ((s0.sourceWindow_eq_none_iff _).mpr
        fun source => noTalk ⟨incident, talkthrough, source⟩)
    have sent := treatDownlinkRead_equalise (a := a) (s := s0) segment judged
    refine ⟨answered sent, fun direct => answered (sent.trans ?_)⟩
    rw [(sendThrough_cases s0 m a hit (.equalise gain) false).1 direct.1 direct.2]
    show s0.setStage m (.issued { hit := some hit, port := onBehalf m.val a _, treat := _, .. }) = _
    rw [onBehalf, read]
    rfl
  · intro u isHeld
    have found : s0.sourceWindow d.source = some w := (s0.sourceWindow_eq_some_iff d.source w).mpr ⟨source, lowest⟩
    have judged : s0.judgeDownlink gain hit = .talkthrough gain hit.service w u :=
      judgeDownlink_talkthrough gain incident talkthrough found
    have treated := treatDownlinkRead_talkthrough (a := a) (s := s0) segment judged
    refine ⟨fun held => answered (treated.trans (if_neg fun none => (s0.slotOf_eq_none_iff w u).mp none held)),
      fun unheld => ?_⟩
    have free : s0.slotOf w u = none := (s0.slotOf_eq_none_iff w u).mpr (not_exists.mpr unheld)
    have sent := treated.trans (if_pos free)
    refine ⟨answered sent, fun direct => answered (sent.trans ?_)⟩
    rw [(sendThrough_cases s0 m a hit (.talkthrough gain hit.service w u) false).1 direct.1 direct.2]
    exact deliver_talkthrough_unheld m a hit false _ gain hit.service free

end Sys2Proof.Machine
end

section
/-! An access presented at the system port and taken for service (R18 to R26, R43, R44, R99, R101). -/

namespace Sys2Proof.Machine

/-! ## What an event and a fault leave alone -/

/-- An event reaches the pending list, the lost-event count and the write-back list, and nothing else (R171 to R173). -/
theorem raiseEvent_frame (s : State) (k : EventKind) (o : Nat) (t : Byte) (r : Nat) : ∃ events lost l,
    s.raiseEvent k o t r = { s with events := events, lostEvents := lost, writeBackList := l } := by
  unfold State.raiseEvent State.loseEvent State.listIf
  repeat' split
  all_goals exact ⟨_, _, _, rfl⟩

/-- A fault reaches the fault records, what it lists and what its event reaches, and nothing else (R169). -/
theorem raiseFault_frame (s : State) (k : FaultKind) (n : Nat) (a : Addr) (w : Option (Fin 16)) :
    ∃ access memory count events lost l, s.raiseFault k n a w =
      { s with accessFault := access, memoryFault := memory, lostFaults := count, events := events, lostEvents := lost,
               writeBackList := l } := by
  have record (c : Bool) (r : FaultRecord) : ∃ access memory l, s.setFaultRecord c r =
      { s with accessFault := access, memoryFault := memory, writeBackList := l } := by
    unfold State.setFaultRecord State.listIf
    repeat' split
    all_goals exact ⟨_, _, _, rfl⟩
  have count (u : State) (met : Bool) : ∃ count l, u.countLostFault met =
      { u with lostFaults := count, writeBackList := l } := by
    unfold State.countLostFault State.listIf
    repeat' split
    all_goals exact ⟨_, _, rfl⟩
  obtain ⟨_, _, _, recorded⟩ := record k.memoryClass
    ((s.faultRecord k.memoryClass).takeFault k n a w)
  obtain ⟨_, _, counted⟩ := count (s.setFaultRecord k.memoryClass ((s.faultRecord k.memoryClass).takeFault k n a w))
    (s.faultRecord k.memoryClass).valid
  obtain ⟨_, _, _, raised⟩ := raiseEvent_frame ((s.setFaultRecord k.memoryClass
    ((s.faultRecord k.memoryClass).takeFault k n a w)).countLostFault (s.faultRecord k.memoryClass).valid) .fault n 0 k.code
  unfold State.raiseFault
  dsimp only
  rw [raised, counted, recorded]
  exact ⟨_, _, _, _, _, _, rfl⟩

@[simp] theorem raiseEvent_windows (s : State) (k : EventKind) (o : Nat) (t : Byte) (r : Nat) :
    (s.raiseEvent k o t r).windows = s.windows := by
  obtain ⟨_, _, _, frame⟩ := raiseEvent_frame s k o t r
  rw [frame]

@[simp] theorem raiseEvent_segments (s : State) (k : EventKind) (o : Nat) (t : Byte) (r : Nat) :
    (s.raiseEvent k o t r).segments = s.segments := by
  obtain ⟨_, _, _, frame⟩ := raiseEvent_frame s k o t r
  rw [frame]

/-! ## The notices of a taken access -/

theorem segOf_eq_some {m : Fin 16} {g : Fin 12} (h : segOf m = some g) : m.val = g.val + 1 := by
  unfold segOf at h
  split at h
  · next range =>
    obtain rfl := Option.some.inj h
    show m.val = m.val - 1 + 1
    omega
  · cases h

theorem noticeAccess_other {s : State} {m : Fin 16} (other : segOf m = none) : s.noticeAccess m = s := by
  unfold State.noticeAccess
  rw [other]

theorem noticeAccess_segment (s : State) {m : Fin 16} {g : Fin 12} (segment : segOf m = some g) :
    s.noticeAccess m = match (s.segments.get g).state with
      | .offline => s
      | .active => s.restartTimer g
      | .stalled => s.resume g
      | .excluded => s := by
  unfold State.noticeAccess
  rw [segment]
  rfl

theorem notices_read {s : State} {a : Access} (m : Fin 16) (read : a.dir = .read) : s.notices m a = s.noticeAccess m := by
  unfold State.notices
  rw [read]

theorem notices_write {s : State} {a : Access} (m : Fin 16) (write : a.dir = .write) :
    s.notices m a = (s.noticeAccess m).snoop (.master m) a.addr a.len := by
  unfold State.notices
  rw [write]

theorem WindowEntry.mapRegionHolds_iff (e : WindowEntry) (x : Addr) : e.mapRegionHolds x = true ↔
    (e.enable = true ∨ e.retiring = true) ∧ e.translation.1 = true ∧
      (x - (e.translation.2 &&& 0xFFFFFFFC#32)).toNat < 4 * 2 ^ e.size := by
  simp [WindowEntry.mapRegionHolds, mapEntryAddr, WindowEntry.frames, and_assoc]

/-- Settles O25: the notice goes by the segment's state; the snoop finds the hazarded words of the write. -/
theorem noticesGiven : Obligations.NoticesGiven := by
  refine ⟨fun s m a => ⟨noticeAccess_other, fun g segment => ⟨segOf_eq_some segment, ?_⟩, notices_read m, notices_write m⟩,
    fun s src addr n => ?_⟩
  · have notice := noticeAccess_segment s segment
    refine ⟨fun quiet => ?_, fun active => ?_, fun stalled => ?_⟩
    · rcases quiet with state | state <;> rw [notice, state]
    · exact notice.trans (by rw [active] : _ = s.restartTimer g)
    · exact notice.trans (by rw [stalled] : _ = s.resume g)
  · intro t word overlaps
    have hazarded (x : Addr) : x ∈ s.hazarded addr n ↔ overlaps x := mem_hazarded s addr n x
    have somewhere : (∃ x, overlaps x) ↔ ∃ i < n, ∃ w, (s.windows.get w).mapRegionHolds (wordAddr addr i) = true :=
      ⟨fun ⟨_, ⟨i, hi, rfl⟩, w, hw⟩ => ⟨i, hi, w, hw⟩, fun ⟨i, hi, w, hw⟩ => ⟨_, ⟨i, hi, rfl⟩, w, hw⟩⟩
    refine ⟨rfl, fun c => ?_, fun h => ?_, Option.isSome_map, fun f found => ?_, WindowEntry.mapRegionHolds_iff⟩
    · show c ∈ s.snoopedCache addr n ↔ _
      rw [snoopedCache_eq, List.mem_filter, snoopSpares_iff, somewhere]
      rfl
    · show h ∈ s.hazards ++ (s.hazarded addr n).map _ ↔ _
      rw [List.mem_append, List.mem_map, ← hazarded]
      refine or_congr_right ⟨?_, fun ⟨source, covered⟩ => ⟨h.addr, covered, by rw [← source]⟩⟩
      rintro ⟨x, covered, rfl⟩
      exact ⟨rfl, covered⟩
    · obtain ⟨f', before, rfl⟩ := Option.map_eq_some_iff.mp found
      refine ⟨f', before, rfl, ?_⟩
      show (f'.discard || (s.hazarded addr n).contains f'.request.mapAddr) = true ↔ _
      rw [Bool.or_eq_true, List.contains_iff_mem, hazarded]

/-! ## The checks on a taken access -/

theorem classify_congr {s t : State} (straps : t.baseStraps = s.baseStraps) (windows : t.windows = s.windows) (x : Addr) :
    t.classify x = s.classify x := by
  unfold State.classify State.windowAt State.inRegion State.regionBase
  rw [straps, windows]

theorem noticeAccess_windows (s : State) (m : Fin 16) : (s.noticeAccess m).windows = s.windows := by
  cases segment : segOf m with
  | none => rw [noticeAccess_other segment]
  | some g =>
    rw [noticeAccess_segment s segment]
    split
    · rfl
    · rfl
    · simp [State.resume, State.raiseSegment]
    · rfl

/-- A notice takes no segment into or out of OFFLINE, and leaves the entry of an OFFLINE one as it is (R99, R101). -/
theorem noticeAccess_offline (s : State) {m : Fin 16} {g : Fin 12} (segment : segOf m = some g) :
    (((s.noticeAccess m).segments.get g).state = .offline ↔ (s.segments.get g).state = .offline) ∧
      ((s.segments.get g).state = .offline → s.noticeAccess m = s) := by
  rw [noticeAccess_segment s segment]
  cases state : (s.segments.get g).state with
  | offline => exact ⟨by rw [state], fun _ => rfl⟩
  | active => simp [State.restartTimer, state]
  | stalled => simp [State.resume, State.raiseSegment]
  | excluded => simp [state]

/-- The notices leave the classes of addresses alone. -/
theorem notices_classify (s : State) (m : Fin 16) (a : Access) (x : Addr) : (s.notices m a).classify x = s.classify x := by
  refine classify_congr (notices_quiet s m a).baseStraps ?_ x
  unfold State.notices
  split
  · exact noticeAccess_windows s m
  · exact noticeAccess_windows s m

theorem notices_segments (s : State) (m : Fin 16) (a : Access) :
    (s.notices m a).segments = (s.noticeAccess m).segments := by
  unfold State.notices
  split <;> rfl

/-- A command that names the taking that is due takes the access, with the notices first (R18, R25). -/
theorem exec_accessTakenForService {s : State} {m : Fin 16} {a : Access} (next : s.NextDue (.take m))
    (released : s.resetLow = false) (front : s.front m = some a) (stage : s.stage m = .waiting) :
    exec (.accessTakenForService m) s = .next ((s.popDue.notices m a).check m a).settle := by
  have own : State.ownTaking m s (.take m) = some (s.popDue.takeAccess m) := if_pos rfl
  have taken : s.popDue.takeAccess m = (s.popDue.notices m a).check m a := by
    unfold State.takeAccess
    rw [show s.popDue.resetLow = false from released, show s.popDue.front m = some a from front,
      show s.popDue.stage m = .waiting from stage]
  exact congrArg done ((catchUpTo_own _ s _ _ next own).trans taken)

section
variable {s : State} {m : Fin 16} {a : Access}

theorem check_boundary {w : Option (Fin 16)}
    (crosses : boundaryFault (s.classify a.addr) (s.classify (lastAddr a)) = some w) :
    s.check m a = (s.raiseFault .boundary m.val a.addr w).respondDropped m a := by
  unfold State.check
  rw [crosses]

variable (passes : boundaryFault (s.classify a.addr) (s.classify (lastAddr a)) = none)
include passes

theorem check_control (control : s.classify a.addr = .control) :
    s.check m a = if s.writeOut.isSome then s.setStage m .heldWriteOut else s.handOn m .control := by
  unfold State.check
  rw [passes, control]

theorem check_unwindowed (unwindowed : s.classify a.addr = .unwindowed) : s.check m a = s.handOn m .unwindowed := by
  unfold State.check
  rw [passes, unwindowed]

theorem check_offline {hit : WinHit} {g : Fin 12} (window : s.classify a.addr = .window hit) (segment : segOf m = some g)
    (offline : (s.segments.get g).state = .offline) : s.check m a = s.dropOffline m g a := by
  have found : s.offlineSegment m = some g := by
    unfold State.offlineSegment
    rw [segment]
    exact if_pos offline
  unfold State.check
  rw [passes, window]
  simp only [found]

theorem check_online {hit : WinHit} (window : s.classify a.addr = .window hit)
    (online : ∀ g, segOf m = some g → (s.segments.get g).state ≠ .offline) : s.check m a = s.checkPartial m a hit := by
  have none : s.offlineSegment m = none := by
    unfold State.offlineSegment
    cases segment : segOf m with
    | none => rfl
    | some g => exact if_neg (online g segment)
  unfold State.check
  rw [passes, window]
  simp only [none]

end

/-- An access with no partial word, and an UPLINK write, goes on (R22, R23). -/
theorem checkPartial_passes {a : Access} {hit : WinHit} (s : State) (m : Fin 16)
    (whole : hasPartial a = false ∨ (a.dir = .write ∧ hit.role = .uplink)) :
    s.checkPartial m a hit = s.handOn m (.window hit) := by
  unfold State.checkPartial
  rcases whole with whole | ⟨write, uplink⟩
  · simp [whole]
  · simp [write, uplink]

theorem checkPartial_read {a : Access} (s : State) (m : Fin 16) (hit : WinHit) (part : hasPartial a = true)
    (read : a.dir = .read) : s.checkPartial m a hit =
      (s.raiseFault .partialWord m.val a.addr (some hit.window)).handOn m (.window hit) := by
  unfold State.checkPartial
  simp [part, read]

theorem checkPartial_write {a : Access} {hit : WinHit} (s : State) (m : Fin 16) (part : hasPartial a = true)
    (write : a.dir = .write) (role : hit.role ≠ .uplink) : s.checkPartial m a hit =
      (s.raiseFault .partialWord m.val a.addr (some hit.window)).respondDropped m a := by
  unfold State.checkPartial
  simp [part, write, role]

/-- A burst passes within the control region, within unwindowed addresses, or within one frame of one window (R20). -/
theorem boundaryFault_eq_none_iff (first last : Cls) : boundaryFault first last = none ↔
    (first = .control ∧ last = .control) ∨ (first = .unwindowed ∧ last = .unwindowed) ∨
      ∃ h h', first = .window h ∧ last = .window h' ∧ h.window = h'.window ∧ h.frame = h'.frame := by
  cases first <;> cases last <;> simp [boundaryFault]

/-- BOUNDARY names the window of the first word, else that of the last, else none (R20). -/
theorem boundaryFault_window {first last : Cls} {w : Option (Fin 16)} (crosses : boundaryFault first last = some w) :
    (∀ h, first = .window h → w = some h.window) ∧
      ((∀ h, first ≠ .window h) → ∀ h, last = .window h → w = some h.window) ∧
      ((∀ h, first ≠ .window h) → (∀ h, last ≠ .window h) → w = none) := by
  cases first <;> cases last <;> simp_all [boundaryFault]

/-- Settles O24: the notices leave the classes, the write-out and OFFLINE alone, so each check is made as at the taking. -/
theorem accessTaken : Obligations.AccessTaken := by
  refine ⟨fun s m a next released front stage => ?_, fun first last =>
    ⟨boundaryFault_eq_none_iff first last, fun w crosses => boundaryFault_window crosses⟩⟩
  intro s0 n cls take handedOn
  have takes : take (n.check m a) := exec_accessTakenForService next released front stage
  have answered {u : State} (h : n.check m a = u) : take u := h ▸ takes
  have classes (x : Addr) : n.classify x = s.classify x := notices_classify s0 m a x
  have writeOut : n.writeOut = s.writeOut := (notices_quiet s0 m a).writeOut
  have offline {g : Fin 12} (segment : segOf m = some g) := noticeAccess_offline s0 segment
  refine ⟨fun w crosses => answered (check_boundary (by rw [classes, classes]; exact crosses)), fun passes => ?_⟩
  have passes' : boundaryFault (n.classify a.addr) (n.classify (lastAddr a)) = none := by
    rw [classes, classes]; exact passes
  have on {u : State} {c : Cls} (class_ : cls = c) (h : n.check m a = u.handOn m c) : take (handedOn u) := by
    subst class_
    exact answered h
  refine ⟨fun control => ?_, fun unwindowed => on unwindowed (check_unwindowed passes' ((classes _).trans unwindowed)),
    fun hit window => ⟨fun g segment off => ?_, fun online => ?_⟩⟩
  · have checked := check_control (m := m) passes' ((classes _).trans control)
    rw [writeOut] at checked
    by_cases held : s.writeOut.isSome = true
    · rw [if_pos held] at checked ⊢
      exact answered checked
    · rw [if_neg held] at checked ⊢
      exact on control checked
  · have still : n.segments.get g = s.segments.get g := by
      rw [notices_segments, (offline segment).2 off]
    have checked := check_offline passes' ((classes _).trans window) segment (by rw [still]; exact off)
    unfold State.dropOffline at checked
    rw [still] at checked
    exact answered checked
  · have checked : n.check m a = n.checkPartial m a hit := check_online passes' ((classes _).trans window)
      fun g segment off => online g segment ((offline segment).1.mp (by rw [← notices_segments s0 m a]; exact off))
    exact ⟨fun whole => on window (checked.trans (checkPartial_passes n m whole)),
      fun part read => on window (checked.trans (checkPartial_read n m hit part read)),
      fun part write role => answered (checked.trans (checkPartial_write n m part write role))⟩

end Sys2Proof.Machine
end

section
/-! What settling adds after every command (R25, R32, R40): the retirements that end, and the requests that join their masters'
queues. -/

namespace Sys2Proof.Machine

/-! ## Retirements that end -/

theorem State.listed_iff (s : State) (id : RecordId) : s.listed id = true ↔ id ∈ s.writeBackList.map (·.id) := by
  simp [State.listed]

theorem State.list_listed_iff (s : State) (id x : RecordId) :
    (s.list id).listed x = true ↔ s.listed x = true ∨ x = id := by
  rw [State.listed_iff, State.listed_iff, State.list_writeBackList, addListed_ids]
  split
  · next listed => exact ⟨.inl, fun h => h.elim (fun h => h) (fun h => h ▸ listed)⟩
  · rw [List.mem_append, List.mem_singleton]

/-- The window is retiring and nothing of it is left (R32). -/
def State.ends (s : State) (w : Fin 16) : Bool := (s.windows.get w).retiring && !s.windowBusy w

/-- A window entry whose retirement has ended (R32). -/
def WindowEntry.ended (e : WindowEntry) : WindowEntry := { e with retiring := false, horizon := none, captured := none }

theorem endRetirement_of_ends {s : State} {w : Fin 16} (h : s.ends w = true) : s.endRetirement w =
    (({ s with cache := s.cache.filter (fun c => c.window != w) } : State).setWindow w (s.windows.get w).ended).list
      (.window w) := if_pos h

theorem endRetirement_of_not_ends {s : State} {w : Fin 16} (h : s.ends w = false) : s.endRetirement w = s :=
  if_neg (ne_true_of_eq_false h)

/-- The end of one retirement leaves the others to end as they did. -/
theorem endRetirement_ends {s : State} {w : Fin 16} (h : s.ends w = true) (x : Fin 16) :
    (s.endRetirement w).ends x = (decide (x ≠ w) && s.ends x) := by
  rw [endRetirement_of_ends h]
  show (((setAt s.windows w (s.windows.get w).ended).get x).retiring && !s.windowBusy x) = _
  rw [setAt_get]
  by_cases same : w = x
  · subst same
    simp [WindowEntry.ended]
  · simp [same, Ne.symm same, State.ends]

/-- What the part `u` has that `s` had not: the windows of `l` whose retirement could end have ended it (R32). -/
structure Retired (s u : State) (l : List (Fin 16)) : Prop where
  frame : u = { s with windows := u.windows, cache := u.cache, writeBackList := u.writeBackList }
  windows : ∀ x, u.windows.get x = if x ∈ l ∧ s.ends x = true then (s.windows.get x).ended else s.windows.get x
  cache : u.cache = s.cache.filter (fun c => !(decide (c.window ∈ l) && s.ends c.window))
  listed : ∀ id, u.listed id = true ↔ s.listed id = true ∨ ∃ x ∈ l, id = .window x ∧ s.ends x = true

theorem Retired.nil (s : State) : Retired s s [] := by
  constructor <;> simp

theorem Retired.skip {s u : State} {w : Fin 16} {l : List (Fin 16)} (h : s.ends w = false) (r : Retired s u l) :
    Retired s u (w :: l) where
  frame := r.frame
  windows x := by
    rw [r.windows x]
    refine if_congr ?_ rfl rfl
    simp only [List.mem_cons, or_and_right]
    exact ⟨.inr, fun k => k.elim (fun ⟨e, k⟩ => absurd k (by rw [e, h]; exact Bool.false_ne_true)) id⟩
  cache := by
    rw [r.cache]
    refine List.filter_congr fun c _ => ?_
    by_cases e : c.window = w <;> simp [e, h]
  listed id := by
    rw [r.listed id]
    simp [h]

theorem Retired.step {s u : State} {w : Fin 16} {l : List (Fin 16)} (h : s.ends w = true)
    (r : Retired (s.endRetirement w) u l) : Retired s u (w :: l) where
  frame := by
    have frame := r.frame
    rw [endRetirement_of_ends h] at frame
    exact frame
  windows x := by
    rw [r.windows x, endRetirement_ends h x]
    have before : (s.endRetirement w).windows.get x = if w = x then (s.windows.get w).ended else s.windows.get x := by
      rw [endRetirement_of_ends h]
      exact setAt_get ..
    by_cases same : w = x
    · subst same
      simp [before, h]
    · simp [before, same, Ne.symm same]
  cache := by
    rw [r.cache]
    have before : (s.endRetirement w).cache = s.cache.filter (fun c => c.window != w) := by rw [endRetirement_of_ends h]; rfl
    rw [before, List.filter_filter]
    refine List.filter_congr fun c _ => ?_
    rw [endRetirement_ends h]
    by_cases same : c.window = w <;> simp [same, h]
  listed id := by
    rw [r.listed id]
    simp only [endRetirement_ends h]
    have before : (s.endRetirement w).listed id = true ↔ s.listed id = true ∨ id = .window w := by
      rw [endRetirement_of_ends h]
      exact State.list_listed_iff _ _ _
    rw [before]
    by_cases same : id = .window w
    · simp [same, h]
    · simp only [same, or_false, List.mem_cons]
      refine or_congr_right ⟨fun ⟨x, hx, e, k⟩ => ⟨x, .inr hx, e, (Bool.and_eq_true_iff.mp k).2⟩, fun ⟨x, hx, e, k⟩ => ?_⟩
      have other : x ≠ w := fun e' => same (e' ▸ e)
      exact ⟨x, hx.resolve_left other, e, by simp [other, k]⟩

theorem retired_foldl (l : List (Fin 16)) : ∀ s : State, Retired s (l.foldl State.endRetirement s) l := by
  induction l with
  | nil => exact Retired.nil
  | cons w l ih =>
    intro s
    cases h : s.ends w with
    | false =>
      rw [List.foldl_cons, endRetirement_of_not_ends h]
      exact (ih s).skip h
    | true => exact (ih _).step h

theorem retired_endRetirements (s : State) : Retired s s.endRetirements (List.finRange 16) := retired_foldl _ s

/-! ## Requests that are taken -/

/-- What the part `u` has that `s` had not: the requests `taken` stand in their masters' queues, and those that came to an empty
queue are due to be taken for service (R25; log 6). -/
structure Joined (s u : State) (taken : List Access) : Prop where
  ports : ∀ m, u.ports.get m =
    { s.ports.get m with queue := (s.ports.get m).queue ++ taken.filter (fun a => a.master = m) }
  due : u.due = s.due ++
    (taken.filter (fun a => (s.ports.get a.master).queue = [])).map (fun a => Due.take a.master)
  behind : ∀ a ∈ taken.dropLast, (s.ports.get a.master).queue ≠ []
  places : ∀ a ∈ taken, (u.ports.get a.master).queue.length ≤ 4
  closed : s.portOpen = false → taken = []

theorem Joined.nil (s : State) (l : List Access) : Joined s { s with portWaiting := l } [] := by
  constructor <;> simp

theorem enqueue_ports (s : State) (a : Access) (m : Fin 16) : (s.enqueue a).ports.get m =
    { s.ports.get m with queue := (s.ports.get m).queue ++ if a.master = m then [a] else [] } := by
  show (setAt s.ports a.master _).get m = _
  rw [setAt_get]
  split
  · next same => rw [same]
  · rw [List.append_nil]

/-- An access that joins an empty queue closes the port (R25). -/
theorem enqueue_closes {s : State} {a : Access} (first : (s.ports.get a.master).queue = []) :
    (s.enqueue a).portOpen = false := by
  simp [State.enqueue, State.portOpen, first]

theorem enqueue_due (s : State) (a : Access) : (s.enqueue a).due =
    s.due ++ if (s.ports.get a.master).queue = [] then [.take a.master] else [] := by
  unfold State.enqueue
  simp [List.isEmpty_iff]

theorem Joined.cons {s u : State} {a : Access} {taken : List Access} (opened : s.portOpen = true)
    (place : (s.ports.get a.master).queue.length < 4) (j : Joined (s.enqueue a) u taken) : Joined s u (a :: taken) where
  ports m := by
    rw [j.ports m, enqueue_ports, List.append_assoc]
    by_cases mine : a.master = m <;> simp [mine]
  due := by
    rw [j.due, enqueue_due]
    by_cases first : (s.ports.get a.master).queue = []
    · rw [j.closed (enqueue_closes first)]
      simp [first]
    · rw [List.filter_cons_of_neg (by simpa using first), if_neg first, List.append_nil]
      refine congrArg (fun l => s.due ++ List.map _ l) (List.filter_congr fun b _ => ?_)
      rw [enqueue_ports]
      by_cases mine : a.master = b.master
      · simp [← mine, first]
      · simp [mine]
  behind b hb := by
    cases taken with
    | nil => cases hb
    | cons c rest =>
      have first : (s.ports.get a.master).queue ≠ [] := fun first => by cases j.closed (enqueue_closes first)
      rw [List.dropLast_cons_cons, List.mem_cons] at hb
      rcases hb with rfl | hb
      · exact first
      · have later := j.behind b hb
        rw [enqueue_ports] at later
        by_cases mine : a.master = b.master
        · exact mine ▸ first
        · simpa [mine] using later
  places b hb := by
    rcases List.mem_cons.mp hb with rfl | hb
    · by_cases again : ∃ c ∈ taken, c.master = b.master
      · obtain ⟨c, hc, mine⟩ := again
        exact mine ▸ j.places c hc
      · have none : taken.filter (fun c => decide (c.master = b.master)) = [] := by
          rw [List.filter_eq_nil_iff]
          exact fun c hc mine => again ⟨c, hc, of_decide_eq_true mine⟩
        rw [j.ports, enqueue_ports, none]
        simpa using place
    · exact j.places b hb
  closed shut := by rw [opened] at shut; cases shut

theorem takeRequests_frame (l : List Access) : ∀ s : State,
    takeRequests l s = { s with ports := (takeRequests l s).ports, portWaiting := (takeRequests l s).portWaiting,
                                due := (takeRequests l s).due } := by
  induction l with
  | nil => exact fun _ => rfl
  | cons a rest ih =>
    intro s
    unfold takeRequests
    split
    · exact ih (s.enqueue a)
    · rfl

/-- The port can take the request: it is open, and the master's queue has a place (R25). -/
theorem canTake_iff (s : State) (a : Access) :
    (s.portOpen && decide ((s.ports.get a.master).queue.length < Config.queuePlaces)) = true ↔
      s.portOpen = true ∧ (s.ports.get a.master).queue.length < 4 := by
  rw [Bool.and_eq_true, decide_eq_true_iff]
  rfl

/-- The requests taken are the oldest ones, and they join their masters' queues (R25; log 7). -/
theorem takeRequests_joined (l : List Access) : ∀ s : State, ∃ taken,
    l = taken ++ (takeRequests l s).portWaiting ∧ Joined s (takeRequests l s) taken := by
  induction l with
  | nil => exact fun s => ⟨[], rfl, Joined.nil s []⟩
  | cons a rest ih =>
    intro s
    unfold takeRequests
    split
    · next can =>
      obtain ⟨opened, place⟩ := (canTake_iff s a).mp can
      obtain ⟨taken, order, joined⟩ := ih (s.enqueue a)
      exact ⟨a :: taken, congrArg (a :: ·) order, joined.cons opened place⟩
    · exact ⟨[], rfl, Joined.nil s _⟩

/-- A request that still waits found the port closed or its master's queue full (R25). -/
theorem takeRequests_stops (l : List Access) : ∀ (s : State) (a : Access), (takeRequests l s).portWaiting.head? = some a →
    (takeRequests l s).portOpen = false ∨ 4 ≤ ((takeRequests l s).ports.get a.master).queue.length := by
  induction l with
  | nil => exact fun _ _ h => by cases h
  | cons b rest ih =>
    intro s a
    unfold takeRequests
    split
    · exact ih _ a
    · next cannot =>
      intro h
      obtain rfl : b = a := Option.some.inj h
      rw [canTake_iff, not_and_or, Bool.not_eq_true, Nat.not_lt] at cannot
      exact cannot

/-- What settling adds, as the retirements that end and the requests that are taken after them. -/
theorem settle_spec (s : State) : ∃ u taken, Retired s u (List.finRange 16) ∧ Joined u s.settle taken ∧
    s.portWaiting = taken ++ s.settle.portWaiting ∧
    s.settle = { u with ports := s.settle.ports, portWaiting := s.settle.portWaiting, due := s.settle.due } := by
  have retired := retired_endRetirements s
  obtain ⟨taken, order, joined⟩ := takeRequests_joined s.endRetirements.portWaiting s.endRetirements
  have waiting : s.endRetirements.portWaiting = s.portWaiting := by rw [retired.frame]
  have settled : s.settle = takeRequests s.endRetirements.portWaiting s.endRetirements := rfl
  rw [settled]
  exact ⟨_, taken, retired, joined, waiting.symm.trans order, takeRequests_frame _ _⟩

/-- Settles O4: the retirements that can end do, in one closed form; then the requests at the port are taken in order. -/
theorem settleEffects : Obligations.SettleEffects := by
  intro s ends
  obtain ⟨u, taken, retired, joined, order, frame⟩ := settle_spec s
  have stops := takeRequests_stops s.endRetirements.portWaiting s.endRetirements
  have windows : s.settle.windows = u.windows := by rw [frame]
  have cache : s.settle.cache = u.cache := by rw [frame]
  have list : s.settle.writeBackList = u.writeBackList := by rw [frame]
  have ports : u.ports = s.ports := by rw [retired.frame]
  have due : u.due = s.due := by rw [retired.frame]
  have portOpen : u.portOpen = s.portOpen := by rw [retired.frame]; rfl
  refine ⟨?_, fun w => ?_, ?_, fun id => ?_, ⟨taken, order, fun m => ?_, ?_, ?_, joined.places, ?_⟩, stops⟩
  · rw [windows, cache, list]
    exact frame.trans (congrArg (fun x : State => { x with
      ports := s.settle.ports, portWaiting := s.settle.portWaiting, due := s.settle.due }) retired.frame)
  · rw [windows, retired.windows w]
    exact if_congr (and_iff_right (List.mem_finRange w)) rfl rfl
  · rw [cache, retired.cache]
    exact List.filter_congr fun c _ => by rw [decide_eq_true (List.mem_finRange c.window), Bool.true_and]; rfl
  · have listed : s.settle.listed id = u.listed id := by rw [State.listed, list]; rfl
    rw [listed, retired.listed id]
    exact or_congr_right (exists_congr fun w => and_iff_right (List.mem_finRange w))
  · rw [joined.ports m, ports]
  · rw [joined.due, due, ports]
  · rw [← ports]
    exact joined.behind
  · rw [← portOpen]
    exact joined.closed

/-! ## An access presented at a settled part -/

/-- The port can take requests while the reset is high, nothing is due, and no master's request waits for a translation place
(R25, R27, R40). -/
theorem portOpen_iff (u : State) : u.portOpen = true ↔
    u.resetLow = false ∧ u.due = [] ∧ ∀ r ∈ u.translationWaits, r.own = true := by
  simp [State.portOpen, and_assoc, List.isEmpty_iff]

/-- A part that settling leaves as it is has no retirement to end, and no request at the port that can be taken. -/
theorem settled_parts {s : State} (settled : s.settle = s) :
    s.endRetirements = s ∧ takeRequests s.portWaiting s = s := by
  have taken : takeRequests s.endRetirements.portWaiting s.endRetirements = s := settled
  have frame := takeRequests_frame s.endRetirements.portWaiting s.endRetirements
  have retired := (retired_endRetirements s).frame
  rw [taken] at frame
  generalize s.endRetirements = u at *
  have windows : u.windows = s.windows := by rw [frame]
  have cache : u.cache = s.cache := by rw [frame]
  have list : u.writeBackList = s.writeBackList := by rw [frame]
  have still : u = s := by rw [retired, windows, cache, list]
  exact ⟨still, still ▸ taken⟩

/-- A request at the port makes no difference to the retirements (R32). -/
theorem endRetirements_present (s : State) (a : Access) : (s.present a).endRetirements = s.endRetirements.present a := by
  have one (s : State) (w : Fin 16) : (s.present a).endRetirement w = (s.endRetirement w).present a := by
    cases h : s.ends w with
    | false => rw [endRetirement_of_not_ends h]; exact endRetirement_of_not_ends h
    | true => rw [endRetirement_of_ends h]; exact endRetirement_of_ends h
  unfold State.endRetirements
  generalize List.finRange 16 = l
  induction l generalizing s with
  | nil => rfl
  | cons w l ih => rw [List.foldl_cons, List.foldl_cons, one, ih]

theorem takeRequests_cannot {s : State} {a : Access} (rest : List Access)
    (cannot : ¬(s.portOpen = true ∧ (s.ports.get a.master).queue.length < 4)) :
    takeRequests (a :: rest) s = { s with portWaiting := a :: rest } := by
  unfold takeRequests
  exact if_neg fun can => cannot ((canTake_iff s a).mp can)

theorem takeRequests_can {s : State} {a : Access} (rest : List Access) (opened : s.portOpen = true)
    (place : (s.ports.get a.master).queue.length < 4) :
    takeRequests (a :: rest) s = takeRequests rest (s.enqueue a) := by
  conv_lhs => unfold takeRequests
  exact if_pos ((canTake_iff s a).mpr ⟨opened, place⟩)

theorem exec_accessRequest {s : State} {a : Access} (rest : s.AtRest) (settled : s.settle = s)
    (formed : a.wellFormed = true) :
    exec (.accessRequest a) s = .next (takeRequests (s.portWaiting ++ [a]) (s.present a)) := by
  have settles : (s.present a).settle = takeRequests (s.portWaiting ++ [a]) (s.present a) := by
    unfold State.settle
    rw [endRetirements_present, (settled_parts settled).1]
    rfl
  show (if a.wellFormed = true then done (s.catchUp.present a) else _) = _
  rw [if_pos formed, catchUp_rest s rest]
  exact congrArg Host.Outcome.next settles

/-- Settles O22: at a settled part the foremost request that waits cannot be taken, so the new one is taken only where none
waits. -/
theorem accessRequested : Obligations.AccessRequested := by
  intro s a rest settled formed p
  rw [exec_accessRequest rest settled formed]
  refine ⟨fun empty opened place => ?_, fun waits => ?_, portOpen_iff⟩
  · have joined : (s.present a).enqueue a = { s with
        ports := setAt s.ports a.master { p with queue := p.queue ++ [a] }
        due := if p.queue = [] then [.take a.master] else []
        portWaiting := s.portWaiting ++ [a] } := by
      have owed := enqueue_due s a
      rw [rest.1, List.nil_append] at owed
      show ({ s.enqueue a with portWaiting := s.portWaiting ++ [a] } : State) = _
      rw [← owed]
      rfl
    rw [empty, List.nil_append, takeRequests_can (s := s.present a) [] opened place, joined]
    rfl
  · cases waiting : s.portWaiting with
    | nil =>
      rw [List.nil_append, takeRequests_cannot (s := s.present a) []]
      · rfl
      · rintro ⟨opened, place⟩
        rcases waits with waits | shut | full
        · exact waits waiting
        · exact absurd opened (ne_true_of_eq_false shut)
        · exact absurd place (Nat.not_lt.mpr full)
    | cons b others =>
      have stops := takeRequests_stops s.portWaiting s b
      rw [(settled_parts settled).2, waiting] at stops
      rw [List.cons_append, takeRequests_cannot (s := s.present a)]
      · rfl
      · rintro ⟨opened, place⟩
        exact (stops rfl).elim (fun shut => absurd opened (ne_true_of_eq_false shut))
          fun full => absurd place (Nat.not_lt.mpr full)

end Sys2Proof.Machine
end

section
/-! UPLINK writes that no slot takes up (R22, R23, R51, R55, R58, R62, R63), and control-region reads (R26, R162). -/

namespace Sys2Proof.Machine

/-! ## The checks of an UPLINK write -/

section
variable {s : State} {m : Fin 16} {a : Access} {hit : WinHit} {g : Fin 12}

/-- A write of a master that serves no segment, or of a segment that does not carry the service, raises ROLE (R22). -/
theorem treatUplinkWrite_role
    (role : ∀ g, segOf m = some g → ¬(s.segments.get g).uplinkServices.getLsbD hit.service.val = true) :
    s.treatUplinkWrite m a hit = (s.raiseFault .role m.val a.addr (some hit.window)).respondDropped m a := by
  unfold State.treatUplinkWrite
  cases segment : segOf m with
  | none => rfl
  | some g => exact if_pos (by simpa using role g segment)

variable (segment : segOf m = some g) (carries : (s.segments.get g).uplinkServices.getLsbD hit.service.val = true)
include segment carries

theorem treatUplinkWrite_partial (part : hasPartial a = true) : s.treatUplinkWrite m a hit =
    ((s.raiseFault .partialWord m.val a.addr (some hit.window)).respondDropped m a).tellPartial g hit := by
  unfold State.treatUplinkWrite
  simp [segment, carries, part]

theorem treatUplinkWrite_whole (whole : hasPartial a = false) :
    s.treatUplinkWrite m a hit = s.judgeUplink m g a hit := by
  unfold State.treatUplinkWrite
  simp [segment, carries, whole]

end

/-! ## PARTIAL and the contribution that it breaks -/

theorem slotOf_congr {s t : State} (slots : t.slots = s.slots) (w : Fin 16) (f : Nat) : t.slotOf w f = s.slotOf w f := by
  unfold State.slotOf
  rw [slots]

theorem tellPartial_none {s : State} {hit : WinHit} (g : Fin 12) (unheld : s.slotOf hit.window hit.frame = none) :
    s.tellPartial g hit = s := by
  unfold State.tellPartial
  rw [unheld]

/-- PARTIAL breaks a contribution that is open in a FILLING slot of the frame (R62). -/
theorem tellPartial_slot {s : State} {hit : WinHit} {n : Fin 16} (g : Fin 12)
    (held : s.slotOf hit.window hit.frame = some n) :
    let t := s.slots.get n
    let c := t.contribs.get g
    s.tellPartial g hit =
      if t.state = .filling ∧ g ∈ t.expected ∧ (c.state = .none ∨ c.state = .filling) then
        ((s.setSlot n { t with
          contribs := setAt t.contribs g { c with state := .broken }
          expected := t.expected.filter (fun x => x != g) }).list (.slot n)).checkComplete n
      else s := by
  unfold State.tellPartial
  rw [held]
  exact if_congr (and_congr_right' (and_congr_left' List.contains_iff_mem)) rfl rfl

/-! ## Writes that reach the Combiner -/

section
variable {s : State} {m : Fin 16} {g : Fin 12} {a : Access} {hit : WinHit}

theorem judgeUplink_excluded (excluded : (s.segments.get g).state = .excluded) :
    s.judgeUplink m g a hit = s.dropLate m g := if_pos excluded

variable (member : (s.segments.get g).state ≠ .excluded)
include member

theorem judgeUplink_flushing {n : Fin 16} (held : s.slotOf hit.window hit.frame = some n)
    (flushing : (s.slots.get n).state = .flushing) : s.judgeUplink m g a hit = s.dropLate m g := by
  unfold State.judgeUplink
  rw [if_neg member, held]
  exact if_neg (by rw [flushing]; exact nofun)

theorem judgeUplink_pending {p : PendingAlloc} (unheld : s.slotOf hit.window hit.frame = none)
    (pending : s.allocOf hit.window hit.frame = some p) : s.judgeUplink m g a hit = s.waitOnAlloc m p hit := by
  unfold State.judgeUplink
  rw [if_neg member, unheld]
  simp only [pending]

/-- A write to a frame at or behind the horizon is late (R51). -/
theorem judgeUplink_behind (unheld : s.slotOf hit.window hit.frame = none)
    (unclaimed : s.allocOf hit.window hit.frame = none)
    (behind : newFrame (s.windows.get hit.window).horizon (s.windows.get hit.window).frames hit.frame = false) :
    s.judgeUplink m g a hit = s.dropLate m g := by
  unfold State.judgeUplink
  rw [if_neg member, unheld]
  simp only [unclaimed]
  exact if_neg (ne_true_of_eq_false behind)

end

/-- A frame is behind the horizon at distance 0 and from half the window on (R51). -/
theorem newFrame_behind {h frames f : Nat}
    (behind : (f + frames - h % frames) % frames = 0 ∨ frames / 2 ≤ (f + frames - h % frames) % frames) :
    newFrame (some h) frames f = false := by
  unfold newFrame
  dsimp only
  rw [Bool.and_eq_false_iff, decide_eq_false_iff_not, decide_eq_false_iff_not]
  omega

/-- A late write is counted for its segment and answered OK (R51, R58, R63). -/
theorem dropLate_eq (s : State) (m : Fin 16) (g : Fin 12) :
    let e := s.segments.get g
    s.dropLate m g = ((s.setSegment g { e with lateWrites := min (e.lateWrites + 1) 65535 }).listIf
      (e.lateWrites < 65535) (.segment g)).respond m true [] := rfl

/-- Settles O32: the checks in their order, then R58's rows; the fault leaves the slots alone. -/
theorem uplinkWriteDropped : Obligations.UplinkWriteDropped := by
  intro s m a hit turn role write s0 ends fault carries
  have treats : ends (s0.treatUplinkWrite m a hit) := exec_uplinkWrite turn role write
  have answered {u : State} (h : s0.treatUplinkWrite m a hit = u) : ends u := h ▸ treats
  refine ⟨fun none => answered ((treatUplinkWrite_role (s := s0) none).trans (respondDropped_write write)), fun g segment carried =>
    ⟨fun part => ?_, fun whole => ?_⟩⟩
  · have told : s0.treatUplinkWrite m a hit = (fault .partialWord).tellPartial g hit := by
      rw [treatUplinkWrite_partial (s := s0) segment carried part, respondDropped_write write]
    have slots : (fault .partialWord).slots = s.slots := State.raiseFault_slots s0 _ _ _ _
    refine ⟨fun unheld => answered (told.trans (tellPartial_none g ((slotOf_congr slots _ _).trans unheld))),
      fun n held => ?_⟩
    have broken := told.trans (tellPartial_slot g ((slotOf_congr slots _ _).trans held))
    rw [slots] at broken
    intro t c
    split
    · next breaks => exact answered (broken.trans (if_pos breaks))
    · next spares => exact answered (broken.trans (if_neg spares))
  · have judged : s0.treatUplinkWrite m a hit = s0.judgeUplink m g a hit := treatUplinkWrite_whole (s := s0) segment carried whole
    refine ⟨fun excluded => answered (judged.trans (judgeUplink_excluded (s := s0) excluded)),
      fun member n held flushing => answered (judged.trans (judgeUplink_flushing (s := s0) member held flushing)),
      fun member unheld =>
        ⟨fun p pending => answered (judged.trans (judgeUplink_pending (s := s0) member unheld pending)),
          fun unclaimed h horizon late => answered (judged.trans
            (judgeUplink_behind (s := s0) member unheld unclaimed ?_))⟩⟩
    rw [show (s0.windows.get hit.window).horizon = some h from horizon]
    exact newFrame_behind late

/-! ## Control-region reads -/

/-- A control-region access at its turn is treated by the command of its direction, if the command is about it. -/
theorem asControl_at_turn {s : State} {m : Fin 16} {a : Access} {d : Dir} (turn : s.Turn m a .control) (dir : a.dir = d)
    (p : State → Access → Bool) (f : State → Access → State) (about : p s.popDue a = true) :
    s.asControl m d p f = f s.popDue a := by
  subst dir
  exact asControl_turn turn p f about

theorem exec_controlRegionRead {s : State} {m : Fin 16} {a : Access} (turn : s.Turn m a .control) (read : a.dir = .read) :
    exec (.controlRegionRead m) s = .next (s.popDue.treatControlRead m a).settle :=
  congrArg done (asControl_at_turn turn read (fun _ _ => true) (fun s a => s.treatControlRead m a) rfl)

/-- The records that a read covers: those on which a byte of one of its words falls (R162; log 35). -/
theorem mem_recordsRead (s : State) (a : Access) (id : RecordId) : id ∈ s.recordsRead a ↔
    ∃ j < 4 * a.len, ∃ o, areaOf ((a.addr - s.regionBase).toNat + j) = .record id o := by
  have at_ (x : Area) : (match x with
      | .record id _ => some id
      | .request _ => none
      | .reserved => none
      | .ring => none
      | .plain => none) = some id ↔ ∃ o, x = .record id o := by cases x <;> simp
  unfold State.recordsRead
  rw [List.mem_dedup, List.mem_filterMap]
  exact exists_congr fun j => and_congr List.mem_range (at_ _)

/-- The record is being written back (R160). -/
def State.inFlight (s : State) (id : RecordId) : Prop := ∃ b, s.writeBack = some b ∧ b.id = id

/-- A read waits for a record once for the write-back in flight and once for its place on the list (R162). -/
theorem awaitedOf_eq (s : State) (id : RecordId) [Decidable (s.inFlight id)] :
    s.awaitedOf id = (if s.inFlight id then [id] else []) ++ (if s.listed id = true then [id] else []) := by
  unfold State.awaitedOf
  congr 1
  cases h : s.writeBack with
  | none => exact (if_neg (by simp [State.inFlight, h])).symm
  | some b => exact if_congr (by simp [State.inFlight, h]) rfl rfl

theorem mem_awaitedOf (s : State) (id x : RecordId) :
    x ∈ s.awaitedOf id ↔ x = id ∧ (s.listed id = true ∨ s.inFlight id) := by
  classical
  rw [awaitedOf_eq]
  by_cases flying : s.inFlight id <;> by_cases listed : s.listed id = true <;> simp [flying, listed]

theorem count_awaitedOf (s : State) (id : RecordId) :
    (s.listed id = true → s.inFlight id → (s.awaitedOf id).count id = 2) ∧
      (s.listed id = false ∨ ¬s.inFlight id → (s.awaitedOf id).count id ≤ 1) := by
  classical
  rw [awaitedOf_eq]
  by_cases flying : s.inFlight id <;> by_cases listed : s.listed id = true <;> simp [flying, listed]

/-- In a list without repeats whose members bring only themselves, a member is counted where it stands. -/
theorem count_flatMap_of_nodup {α : Type} [DecidableEq α] {f : α → List α} {x : α} (own : ∀ y, x ∈ f y → x = y)
    {l : List α} (once : l.Nodup) (mem : x ∈ l) : (l.flatMap f).count x = (f x).count x := by
  have absent (l : List α) (h : x ∉ l) : (l.flatMap f).count x = 0 := by
    refine List.count_eq_zero.mpr fun brought => ?_
    obtain ⟨y, hy, hx⟩ := List.mem_flatMap.mp brought
    exact h (own y hx ▸ hy)
  induction l with
  | nil => cases mem
  | cons y l ih =>
    obtain ⟨new, once⟩ := List.nodup_cons.mp once
    rw [List.flatMap_cons, List.count_append]
    by_cases same : x = y
    · subst same
      rw [absent l new, Nat.add_zero]
    · have other : (f y).count x = 0 := List.count_eq_zero.mpr fun h => same (own y h)
      rw [other, Nat.zero_add, ih once ((List.mem_cons.mp mem).resolve_left same)]

theorem treatControlRead_free {s : State} {a : Access} (m : Fin 16) (free : (s.recordsRead a).flatMap s.awaitedOf = []) :
    s.treatControlRead m a = s.passUnchanged m a := by
  unfold State.treatControlRead
  rw [free]

theorem treatControlRead_held {s : State} {a : Access} (m : Fin 16) (held : (s.recordsRead a).flatMap s.awaitedOf ≠ []) :
    s.treatControlRead m a = s.setStage m (.heldRecords ((s.recordsRead a).flatMap s.awaitedOf)) := by
  unfold State.treatControlRead
  split
  · next free => exact absurd free held
  · rfl

/-- Settles O43: the read waits for what its records await, and each covered record is counted once. -/
theorem controlReadHeld : Obligations.ControlReadHeld := by
  intro s m a turn read s0 covered inFlight
  have awaits (id : RecordId) : id ∈ (s0.recordsRead a).flatMap s0.awaitedOf ↔
      covered id ∧ (s.listed id = true ∨ inFlight id) := by
    rw [List.mem_flatMap]
    constructor
    · rintro ⟨x, hx, await⟩
      obtain ⟨rfl, waits⟩ := (mem_awaitedOf s0 x id).mp await
      exact ⟨(mem_recordsRead s0 a id).mp hx, waits⟩
    · rintro ⟨cover, waits⟩
      exact ⟨id, (mem_recordsRead s0 a id).mpr cover, (mem_awaitedOf s0 id id).mpr ⟨rfl, waits⟩⟩
  have treats : exec (.controlRegionRead m) s = .next (s0.treatControlRead m a).settle := exec_controlRegionRead turn read
  refine ⟨fun free => ?_, fun ⟨id, cover, waits⟩ => ⟨(s0.recordsRead a).flatMap s0.awaitedOf, ?_, awaits,
    fun id cover => ?_⟩⟩
  · have nothing : (s0.recordsRead a).flatMap s0.awaitedOf = [] := by
      refine List.eq_nil_iff_forall_not_mem.mpr fun id await => ?_
      obtain ⟨cover, waits⟩ := (awaits id).mp await
      obtain ⟨unlisted, grounded⟩ := free id cover
      exact waits.elim (fun listed => absurd listed (ne_true_of_eq_false unlisted)) grounded
    rw [treats, treatControlRead_free m nothing, State.passUnchanged, onBehalf, read]
    rfl
  · rw [treats, treatControlRead_held m (List.ne_nil_of_mem ((awaits id).mpr ⟨cover, waits⟩))]
  · have counted : ((s0.recordsRead a).flatMap s0.awaitedOf).count id = (s0.awaitedOf id).count id :=
      count_flatMap_of_nodup (fun y await => ((mem_awaitedOf s0 y id).mp await).1) (List.nodup_dedup _)
        ((mem_recordsRead s0 a id).mpr cover)
    rw [counted]
    exact count_awaitedOf s0 id

end Sys2Proof.Machine
end

section
/-! The two resets (R27, R33, R50, R80, R81, R93, R94, R110, R138, R139, R151, R165, R167). -/

namespace Sys2Proof.Machine

/-! ## What a hard reset leaves -/

/-- After a hard reset no window retires and no request waits, so nothing is left to settle. -/
theorem settle_hardReset (s : State) : s.hardReset.settle = s.hardReset :=
  settle_rest _ (fun w => congrArg WindowEntry.retiring (Vector.get_replicate 16 windowReset w)) rfl

/-- Settles O12: the tables are filled with the reset values of their records. -/
theorem hardResetValues : Obligations.HardResetValues := by
  intro s
  have slot (n : Fin 16) : s.hardReset.slots.get n = slotReset := Vector.get_replicate 16 slotReset n
  refine ⟨s.hardReset, congrArg Host.Outcome.next (settle_hardReset s), rfl, rfl, rfl, ⟨rfl, rfl, rfl, fun m => ?_⟩,
    Vector.get_replicate 16 windowReset, Vector.get_replicate 8 serviceReset, Vector.get_replicate 12 segmentReset, ⟨rfl, rfl⟩,
    Vector.get_replicate 8 zoneReset, Vector.get_replicate 32 cueReset, fun n => ?_, ⟨rfl, rfl⟩, ⟨rfl, rfl, rfl, rfl, Vector.get_replicate 16 0, rfl, rfl⟩,
    ⟨rfl, rfl, rfl, rfl, rfl⟩, rfl, rfl, rfl⟩
  · have port : s.hardReset.ports.get m = { queue := [], stage := .waiting } := Vector.get_replicate 16 _ m
    rw [port]
    exact ⟨rfl, rfl⟩
  · rw [slot n]
    refine ⟨rfl, rfl, rfl, rfl, rfl, rfl, rfl, rfl, rfl, rfl, rfl, rfl, rfl, fun g => ?_⟩
    have contrib : slotReset.contribs.get g = contribReset := Vector.get_replicate 12 contribReset g
    rw [contrib]
    exact ⟨rfl, rfl, rfl⟩

/-! ## The soft reset -/

theorem exec_softReset {s : State} {m : Fin 16} {a : Access} (turn : s.Turn m a .control) (write : a.dir = .write)
    (free : s.writeHeld m a = false) (asks : asksSoftReset (s.keptBytes m a) = true) :
    exec (.softReset m) s = .next (s.written m a).softReset.settle := by
  have treated := treatControlWrite_written free
  rw [if_pos asks] at treated
  exact congrArg done ((asControl_at_turn turn write (requestsSoftReset m) (fun s a => s.treatControlWrite m a) asks).trans
    treated)

theorem Stage.afterSoft_eq (st : Stage) :
    st.afterSoft = match st with | .issued i => .issued { i with changed := [] } | x => x := by
  cases st <;> rfl

/-- The bursts of a slot's flush that the memory has not answered (R71, R81). -/
theorem mem_unansweredBursts (s : State) (n : Fin 16) (b : StaleBurst) : b ∈ s.unansweredBursts n ↔ b.slot = n ∧
    ∃ f, (s.slots.get n).flush = some f ∧ b.burst ∈ f.left ∧ b.port = flushBurst (s.slots.get n).acc f.phys b.burst := by
  unfold State.unansweredBursts
  cases flush : (s.slots.get n).flush with
  | none => simp
  | some f =>
    constructor
    · intro h
      obtain ⟨k, hk, rfl⟩ := List.mem_map.mp h
      exact ⟨rfl, f, rfl, hk, rfl⟩
    · rintro ⟨rfl, f', same, left, port⟩
      obtain rfl := Option.some.inj same
      exact List.mem_map.mpr ⟨b.burst, left, by rw [← port]⟩

/-- The part just after a soft reset's values have been taken and the write-out started (R167). -/
def State.softStarted (s : State) : State := s.softValues.startWriteOut true

/-- A soft reset leaves the queues, and what stands at the memory port there (R27). -/
theorem softStarted_ports (p : State) (k : Fin 16) : p.softStarted.ports.get k =
    { p.ports.get k with stage := (p.ports.get k).stage.afterSoft } := by
  have ports : p.softStarted.ports = p.ports.map (fun q => { q with stage := q.stage.afterSoft }) := rfl
  rw [ports, Vector.get_map]

theorem softStarted_fetchAccess (p : State) : p.softStarted.fetchAccess = p.fetchAccess := by
  have fetch : p.softStarted.fetch = p.fetch.map (fun f => { f with discard := true }) := rfl
  unfold State.fetchAccess
  rw [fetch]
  cases p.fetch <;> rfl

theorem softStarted_backAccesses (p : State) : p.softStarted.backAccesses = p.backAccesses := by
  have writeBack : p.softStarted.writeBack = p.writeBack.map (fun b => { b with dropped := true }) := rfl
  unfold State.backAccesses
  rw [writeBack]
  cases p.writeBack <;> rfl

/-- The flush bursts stand at the memory port after the soft reset as before it (R81). -/
theorem softStarted_flushAccesses (p : State) : p.softStarted.flushAccesses.Perm p.flushAccesses := by
  have slots : (List.finRange 16).flatMap p.softStarted.unansweredBursts = [] := by
    refine List.flatMap_eq_nil_iff.mpr fun n _ => ?_
    have slot : p.softStarted.slots.get n = slotReset := Vector.get_replicate 16 slotReset n
    unfold State.unansweredBursts
    rw [slot]
    rfl
  have stale : p.softStarted.staleBursts = p.staleBursts ++ (List.finRange 16).flatMap p.unansweredBursts := rfl
  unfold State.flushAccesses
  rw [slots, stale, List.nil_append]
  exact List.perm_append_comm.map _

theorem mem_softStarted_staleBursts (p : State) (b : StaleBurst) : b ∈ p.softStarted.staleBursts ↔ b ∈ p.staleBursts ∨
    ∃ f, (p.slots.get b.slot).flush = some f ∧ b.burst ∈ f.left ∧
      b.port = flushBurst (p.slots.get b.slot).acc f.phys b.burst := by
  show b ∈ p.staleBursts ++ (List.finRange 16).flatMap p.unansweredBursts ↔ _
  rw [List.mem_append, List.mem_flatMap]
  refine or_congr_right ⟨fun ⟨n, _, h⟩ => ?_, fun h => ⟨b.slot, List.mem_finRange _, ?_⟩⟩
  · obtain ⟨rfl, h⟩ := (mem_unansweredBursts p n b).mp h
    exact h
  · exact (mem_unansweredBursts p b.slot b).mpr ⟨rfl, h⟩

/-- The image holds every byte of the first 5120 of the region (R166). -/
theorem imageBytes_getElem? (v : RegionView) {off : Nat} (within : off < 5120) :
    (imageBytes v)[off]? = some (imageByte v off) := by
  unfold imageBytes
  rw [List.getElem?_map, List.getElem?_range within]
  rfl

/-- The write-out of a soft reset starts with the values that the part then holds (R166, R167). -/
theorem softStarted_writeOut (p : State) : p.softStarted.writeOut =
    some { soft := true, left := List.range 80, failed := false, image := imageBytes p.softStarted.view } := by
  have view : p.softStarted.view = p.softValues.view := rfl
  rw [view]
  rfl

/-- An access of which the hold ends by a soft reset is classified anew (R27). -/
theorem reclassify_eq {s : State} {m : Fin 16} {a : Access} (front : s.front m = some a) : s.reclassify m =
    if (s.stage m).isHeld = false then s
    else match boundaryFault (s.classify a.addr) (s.classify (lastAddr a)) with
      | some w => (s.raiseFault .boundary m.val a.addr w).respondDropped m a
      | none => if s.inRegion a.addr then s.setStage m .heldWriteOut else s.passUnchanged m a := by
  unfold State.reclassify
  rw [front]
  cases (s.stage m).isHeld <;> rfl

/-- Settles O16: the write asks for the reset once it is issued; the values are then those of `State.softValues`. -/
theorem softResetTakes : Obligations.SoftResetTakes := by
  refine ⟨fun s m a b turn write free carried nonzero => ?_, fun s m a front => reclassify_eq front⟩
  intro p
  have asks : asksSoftReset (s.keptBytes m a) = true := by
    unfold asksSoftReset carries
    rw [carried]
    exact bne_iff_ne.mpr nonzero
  have reset : exec (.softReset m) s = .next (State.settle ((List.finRange 16).foldl State.reclassify p.softStarted)) :=
    exec_softReset turn write free asks
  clear_value p
  refine ⟨p.softStarted, reset, rfl, ?_, fun k => ⟨?_, ?_⟩, rfl, rfl, softStarted_fetchAccess p,
    softStarted_backAccesses p, rfl, ⟨softStarted_flushAccesses p, mem_softStarted_staleBursts p⟩,
    ⟨rfl, rfl, rfl, rfl, rfl, rfl⟩, ⟨_, softStarted_writeOut p, rfl, rfl, rfl, fun off within => ?_⟩⟩
  · exact List.filter_congr fun d _ => by cases d <;> rfl
  · rw [softStarted_ports]
  · exact (congrArg MasterPort.stage (softStarted_ports p k)).trans (Stage.afterSoft_eq _)
  · dsimp only
    exact imageBytes_getElem? p.softStarted.view within

end Sys2Proof.Machine
end

section
/-! What is due is done before another command acts (R25, R26, R104; logs 5, 6, 44). A command either waits until the part is at
rest, or stands for one item of what the part does of itself. -/

namespace Sys2Proof.Machine

/-- The command stands for no item of what the part does of itself, and acts once the part is at rest; a departure notice of a
segment acts so while no such notice has been given. -/
def ActsAtRest (c : Instr) : Prop :=
  (∀ s d, ¬State.Own s c d) ∧ ∃ act : State → Host.Outcome State Fault Refusal,
    ∀ s : State, (∀ g ∈ s.departures, c ≠ .departureNotice g) → exec c s = act s.catchUp

/-- The command acts when the item comes that it stands for, and as the part itself would. -/
def ActsInTurn (c : Instr) : Prop :=
  ∃ own : State → Due → Option State, (∀ s, exec c s = done (s.catchUpTo own)) ∧
    ∀ s d, (s.Own c d → own s d = some (s.popDue.actDue d)) ∧ (¬s.Own c d → own s d = none)

/-! ## Commands that wait until the part is at rest -/

theorem actsAtRest {c : Instr} (hands : handsOn c = none) (taking : ∀ m, c ≠ .accessTakenForService m)
    (act : State → Host.Outcome State Fault Refusal)
    (acts : ∀ s : State, (∀ g ∈ s.departures, c ≠ .departureNotice g) → exec c s = act s.catchUp) : ActsAtRest c := by
  refine ⟨fun s d => ?_, act, acts⟩
  cases d with
  | take m => exact taking m
  | hand m => exact fun own => by cases hands.symm.trans own.1

/-- A departure notice that has not been given does nothing of its own (log 44). -/
theorem exec_departureNotice_absent {s : State} {g : Fin 12}
    (absent : ∀ g' ∈ s.departures, Instr.departureNotice g ≠ .departureNotice g') :
    exec (.departureNotice g) s = done s.catchUp := by
  have out : ¬s.departures.contains g = true := fun given => absent g (List.contains_iff_mem.mp given) rfl
  exact congrArg done (if_neg out)

/-! ## Commands that stand for an item -/

theorem accessTakenForService_actsInTurn (m : Fin 16) : ActsInTurn (.accessTakenForService m) := by
  refine ⟨State.ownTaking m, fun _ => rfl, fun s d => ?_⟩
  cases d with
  | take k =>
    refine ⟨fun own => ?_, fun other => if_neg fun same => other ?_⟩
    · obtain rfl : m = k := by injection own
      exact if_pos rfl
    · obtain rfl : k = m := by injection same
      rfl
  | hand k => exact ⟨fun own => (by cases own.1), fun _ => if_neg nofun⟩

/-- A command that hands on the access of `m` stands for that item if it does with it, where it is about it, what the part
would do. -/
theorem handing_actsInTurn {c : Instr} {m : Fin 16} (f : State → Access → Cls → Option State)
    (hands : handsOn c = some m) (runs : ∀ s, exec c s = done (s.catchUpTo (State.ownHanding m f)))
    (same : ∀ s a k, s.front m = some a → s.stage m = .taken k →
      f s.popDue a k = if isAbout c s a k = true then some (s.popDue.treat m) else none) : ActsInTurn c := by
  have taking (k : Fin 16) : c ≠ .accessTakenForService k := fun e => by rw [e] at hands; cases hands
  refine ⟨State.ownHanding m f, runs, fun s d => ⟨fun own => ?_, fun other => ?_⟩⟩
  · cases d with
    | take k => exact absurd own (taking k)
    | hand k =>
      obtain ⟨hands', a, k', front, stage, about⟩ := own
      obtain rfl : m = k := Option.some.inj (hands.symm.trans hands')
      unfold State.ownHanding
      rw [front, stage]
      exact (if_pos rfl).trans ((same s a k' front stage).trans (if_pos about))
  · unfold State.ownHanding
    split
    · next a k front stage =>
      split
      · next isHand =>
        subst isHand
        exact (same s a k front stage).trans (if_neg fun about => other ⟨hands, a, k, front, stage, about⟩)
      · rfl
    · rfl

/-! ## Which handing on is which command's -/

section
variable {c : Instr} {m : Fin 16} (hands : handsOn c = some m)
include hands

theorem asWindow_actsInTurn (r : Role) (d : Dir) (f : State → Access → WinHit → State)
    (runs : ∀ s, exec c s = done (s.asWindow m r d f))
    (about : ∀ s a hit, isAbout c s a (.window hit) = true ↔ hit.role = r ∧ a.dir = d)
    (control : ∀ s a, isAbout c s a .control = false) (unwindowed : ∀ s a, isAbout c s a .unwindowed = false)
    (treats : ∀ (s : State) a (hit : WinHit), hit.role = r → a.dir = d → s.treatWindow m a hit = f s a hit) :
    ActsInTurn c := by
  refine handing_actsInTurn _ hands runs fun s a k front stage => ?_
  cases k with
  | control => rw [control]; rfl
  | unwindowed => rw [unwindowed]; rfl
  | window hit =>
    have treat : s.popDue.treat m = s.popDue.treatWindow m a hit := by
      unfold State.treat
      rw [show s.popDue.front m = some a from front, show s.popDue.stage m = .taken (.window hit) from stage]
    by_cases mine : hit.role = r ∧ a.dir = d
    · rw [if_pos ((about s a hit).mpr mine), treat, treats _ _ _ mine.1 mine.2]
      exact if_pos mine
    · rw [if_neg fun h => mine ((about s a hit).mp h)]
      exact if_neg mine

theorem asControl_actsInTurn (d : Dir) (p : State → Access → Bool) (f : State → Access → State)
    (runs : ∀ s, exec c s = done (s.asControl m d p f))
    (about : ∀ s a, isAbout c s a .control = true ↔ a.dir = d ∧ p s.popDue a = true)
    (window : ∀ s a hit, isAbout c s a (.window hit) = false) (unwindowed : ∀ s a, isAbout c s a .unwindowed = false)
    (treats : ∀ (s : State) a, s.front m = some a → s.stage m = .taken .control → a.dir = d → s.treat m = f s a) :
    ActsInTurn c := by
  refine handing_actsInTurn _ hands runs fun s a k front stage => ?_
  cases k with
  | window hit => rw [window]; rfl
  | unwindowed => rw [unwindowed]; rfl
  | control =>
    by_cases mine : a.dir = d ∧ p s.popDue a = true
    · rw [if_pos ((about s a).mpr mine), treats s.popDue a front stage mine.1]
      exact if_pos mine
    · rw [if_neg fun h => mine ((about s a).mp h)]
      exact if_neg mine

/-- A row of control-region writes is about a write of which the unmasked bytes carry what it names. -/
theorem controlWrite_actsInTurn (p : State → Access → Bool)
    (runs : ∀ s, exec c s = done (s.asControl m .write p fun s a => s.treatControlWrite m a))
    (about : ∀ s a, isAbout c s a .control = true ↔ a.dir = .write ∧ p s.popDue a = true)
    (window : ∀ s a hit, isAbout c s a (.window hit) = false) (unwindowed : ∀ s a, isAbout c s a .unwindowed = false) :
    ActsInTurn c := by
  refine asControl_actsInTurn hands .write p _ runs about window unwindowed fun s a front stage write => ?_
  unfold State.treat
  rw [front, stage]
  dsimp only
  rw [write]

end

/-- A row of control-region writes is about a write that also carries what the row names. -/
theorem isWrite_iff (a : Access) (carries : Bool) :
    ((Cls.control == Cls.control && a.dir == Dir.write) && carries) = true ↔ a.dir = .write ∧ carries = true := by
  simp

/-! ## Every command but a hard reset -/

theorem acts (c : Instr) (h : c ≠ .hardReset) : ActsAtRest c ∨ ActsInTurn c := by
  cases c with
  | hardReset => exact absurd rfl h
  | accessTakenForService m => exact .inr (accessTakenForService_actsInTurn m)
  | unwindowedAccess m =>
    refine .inr (handing_actsInTurn _ rfl (fun _ => rfl) fun s a k front stage => ?_)
    cases k with
    | control => rfl
    | window hit => rfl
    | unwindowed =>
      have treat : s.popDue.treat m = s.popDue.treatUnwindowed m a := by
        unfold State.treat
        rw [show s.popDue.front m = some a from front, show s.popDue.stage m = .taken .unwindowed from stage]
      exact congrArg some treat.symm
  | uplinkWrite m | uplinkRead m | downlinkWrite m | downlinkRead m | programWrite m | programRead m =>
    exact .inr (asWindow_actsInTurn rfl _ _ _ (fun _ => rfl) (by simp [isAbout]) (fun _ _ => rfl) (fun _ _ => rfl)
      fun s a hit role dir => by rw [State.treatWindow, role, dir])
  | controlRegionRead m =>
    refine .inr (asControl_actsInTurn rfl .read (fun _ _ => true) _ (fun _ => rfl) (by simp [isAbout]) (fun _ _ _ => rfl)
      (fun _ _ => rfl) fun s a front stage read => ?_)
    unfold State.treat
    rw [front, stage]
    dsimp only
    rw [read]
  | controlRegionWrite m =>
    exact .inr (controlWrite_actsInTurn rfl (fun _ _ => true) (fun _ => rfl) (by simp [isAbout]) (fun _ _ _ => rfl)
      fun _ _ => rfl)
  | windowEnable m | windowDisable m | serviceEnable m | serviceDisable m | segmentEnable m
  | segmentDisable m | zoneTimingServiceWrite m | cueStart m | cueStop m | latchSet m | latchClear m | accessFaultClear m
  | memoryFaultClear m | eventConsumerIndexWrite m | missLimitWrite m | eventEnableMaskWrite m | softReset m =>
    exact .inr (controlWrite_actsInTurn rfl _ (fun _ => rfl) (fun _ a => isWrite_iff a _) (fun _ _ _ => rfl)
      fun _ _ => rfl)
  | departureNotice g => exact .inl (actsAtRest rfl nofun done fun _ => exec_departureNotice_absent)
  | accessRequest a =>
    exact .inl (actsAtRest rfl nofun (fun u => if a.wellFormed then done (u.present a) else .refused .malformedAccess)
      fun _ _ => rfl)
  | resetRelease base master divider =>
    exact .inl (actsAtRest rfl nofun (fun u => done (u.release base master divider)) fun _ _ => rfl)
  | memoryAccessAnswer m r =>
    exact .inl (actsAtRest rfl nofun (fun u => done (u.withIssued m r fun a i => u.answerAccess m a i r)) fun _ _ => rfl)
  | clipReadAnswer m r =>
    exact .inl (actsAtRest rfl nofun (fun u => done (u.withIssued m r fun a i => u.answerClip m a i r)) fun _ _ => rfl)
  | talkthroughSourceAnswer m r =>
    exact .inl (actsAtRest rfl nofun (fun u => done (u.withIssued m r fun a i => u.answerSource m a i r)) fun _ _ => rfl)
  | deadlineExpiry n =>
    exact .inl (actsAtRest rfl nofun (fun u => done (if u.deadlineDue n then u.startFlush n .deadline else u)) fun _ _ => rfl)
  | flushBurstAnswer n k ok => exact .inl (actsAtRest rfl nofun (fun u => done (u.answerBurst n k ok)) fun _ _ => rfl)
  | translationQueueJoin => exact .inl (actsAtRest rfl nofun (fun u => done u.joinFromWait) fun _ _ => rfl)
  | mapFetchIssue => exact .inl (actsAtRest rfl nofun (fun u => done u.issueFetch) fun _ _ => rfl)
  | mapFetchComplete ok entry =>
    exact .inl (actsAtRest rfl nofun (fun u => done (match u.fetch with
      | none => u
      | some f => u.completeFetch f ok entry)) fun _ _ => rfl)
  | activityTimerExpiry g =>
    exact .inl (actsAtRest rfl nofun (fun u => done (if u.stallDue g then u.stall g else u)) fun _ _ => rfl)
  | segmentExclusionHandover g => exact .inl (actsAtRest rfl nofun (fun u => done (u.takeHandover g)) fun _ _ => rfl)
  | incidentLineChange high => exact .inl (actsAtRest rfl nofun (fun u => done (u.changeLine high)) fun _ _ => rfl)
  | qualificationTimerExpiry =>
    exact .inl (actsAtRest rfl nofun (fun u => done (if u.qualDue then u.qualify else u)) fun _ _ => rfl)
  | imageWriteOutBurstAnswer k ok =>
    exact .inl (actsAtRest rfl nofun (fun u => done (match u.writeOut with
      | none => u
      | some o => if o.left.contains k.val then u.answerWriteOut o k.val ok else u)) fun _ _ => rfl)
  | writeBackStart => exact .inl (actsAtRest rfl nofun (fun u => done u.startWriteBack) fun _ _ => rfl)
  | writeBackBurstAnswer k ok =>
    exact .inl (actsAtRest rfl nofun (fun u => done (match u.writeBack with
      | none => u
      | some b => if b.left.contains k.val then u.answerWriteBack b k.val ok else u)) fun _ _ => rfl)
  | eventWriteIssue => exact .inl (actsAtRest rfl nofun (fun u => done u.issueEvent) fun _ _ => rfl)
  | eventWriteAnswer ok => exact .inl (actsAtRest rfl nofun (fun u => done (u.answerEvent ok)) fun _ _ => rfl)

/-! ## What comes before a command -/

/-- No notice is left where none has been given. -/
theorem noNotice {s : State} (none : s.departures = []) (c : Instr) (g : Fin 12) (given : g ∈ s.departures) :
    c ≠ .departureNotice g := by
  rw [none] at given
  cases given

/-- A part that has caught up is at rest. -/
theorem catchUp_atRest (s : State) : s.catchUp.AtRest := by
  rcases catchUpTo_ends (fun _ _ => none) s with rest | ⟨u, d, t, -, own, -⟩
  · exact rest
  · cases own

/-- Settles O2: a command acts at rest or in turn, and the work-off takes notices first, then what is due. -/
theorem dueComesFirst : Obligations.DueComesFirst := by
  refine ⟨fun c s notReset => ?_, fun s => ⟨catchUp_atRest s, catchUp_rest s⟩, fun s m rest => ⟨fun due => ?_, fun due => ?_⟩⟩
  · rcases acts c notReset with ⟨never, act, runs⟩ | ⟨own, runs, owns⟩
    · refine ⟨fun _ other => ?_, fun d next _ => ?_, fun d _ mine => absurd mine (never s d)⟩
      · rw [runs s other, runs _ (noNotice (giveNotices_departures s) c)]
        exact congrArg act (catchUpTo_notices _ s)
      · rw [runs s (noNotice next.1 c), runs (s.doDue d) (noNotice (giveNotices_departures _) c)]
        exact congrArg act (catchUpTo_before _ s d next rfl)
    · refine ⟨fun _ _ => ?_, fun d next other => ?_, fun d next mine => ?_⟩
      · rw [runs, runs]
        exact congrArg done (catchUpTo_notices own s)
      · rw [runs, runs]
        exact congrArg done (catchUpTo_before own s d next ((owns s d).2 other))
      · rw [runs]
        exact congrArg done (catchUpTo_own own s _ d next ((owns s d).1 mine))
  · have popped : s.popDue = { s with due := rest } := by rw [State.popDue, due]; rfl
    exact congrArg (fun u : State => (u.takeAccess m).settle.giveNotices) popped
  · have popped : s.popDue = { s with due := rest } := by rw [State.popDue, due]; rfl
    exact congrArg (fun u : State => (u.treat m).settle.giveNotices) popped

end Sys2Proof.Machine
end

section
/-! SUPPORT. A window's entry takes a write's bytes and its enable acts; the windows of a disable retire (R28 to R32, R79,
R122, R158, R179). -/

namespace Sys2Proof.Machine

/-! ## The bytes of a record and its enable -/

/-- Byte 0 of a record is written back exactly where the write carries a value that the part does not hold (R158). -/
theorem listDirty_dirtyAction (u : State) (bs : List WByte) (id : RecordId) : u.listDirty id (u.dirtyAction bs id) =
    match carried bs (recordOffset id) with
    | none => u
    | some b => if b = recordByte u.view id 0 then u else u.listBytes id [0] := by
  unfold State.dirtyAction carries
  cases carried bs (recordOffset id) with
  | none => rfl
  | some b =>
    dsimp only
    by_cases same : b = recordByte u.view id 0
    · simp [same, State.listDirty]
    · simp [same, State.listDirty]

@[simp] theorem listDirty_windows (u : State) (id : RecordId) (l : List Nat) : (u.listDirty id l).windows = u.windows := by
  unfold State.listDirty
  split <;> rfl

@[simp] theorem listDirty_services (u : State) (id : RecordId) (l : List Nat) : (u.listDirty id l).services = u.services := by
  unfold State.listDirty
  split <;> rfl

/-! ## A window entry -/

/-- The state after a window's copy has taken a write's bytes, before the enable acts (R158, R159). -/
def State.windowCopied (s : State) (bs : List WByte) (w : Fin 16) : State :=
  let raw := s.overlay bs (.window w)
  let e := decodeWindow raw (s.windows.get w)
  (s.setWindow w e).listDirty (.window w) (changedBytes windowSpans raw (windowByte e))

theorem windowCopied_windows (s : State) (bs : List WByte) (w x : Fin 16) : (s.windowCopied bs w).windows.get x =
    if w = x then decodeWindow (s.overlay bs (.window w)) (s.windows.get w) else s.windows.get x := by
  simp [State.windowCopied]

theorem windowCopied_entry (s : State) (bs : List WByte) (w : Fin 16) :
    (s.windowCopied bs w).windows.get w = decodeWindow (s.overlay bs (.window w)) (s.windows.get w) := by
  rw [windowCopied_windows, if_pos rfl]

theorem windowCopied_services (s : State) (bs : List WByte) (w : Fin 16) : (s.windowCopied bs w).services = s.services := by
  simp [State.windowCopied]

/-- The normalised copy leaves the enable and the part-owned fields alone (R158). -/
theorem windowCopied_enable (s : State) (bs : List WByte) (w : Fin 16) :
    ((s.windowCopied bs w).windows.get w).enable = (s.windows.get w).enable := by
  rw [windowCopied_entry]
  rfl

theorem windowCopied_retiring (s : State) (bs : List WByte) (w : Fin 16) :
    ((s.windowCopied bs w).windows.get w).retiring = (s.windows.get w).retiring := by
  rw [windowCopied_entry]
  rfl

/-- The copy takes the values first, then the enable acts, and an enable that the part does not hold is written back. -/
theorem takeWindow_eq (s : State) (bs : List WByte) (w : Fin 16) : s.takeWindow bs w =
    match carried bs (recordOffset (.window w)) with
    | none => s.windowCopied bs w
    | some b =>
      let u := if b = 0 then (s.windowCopied bs w).disableWindow w else (s.windowCopied bs w).enableWindow w
      if b = flagByte (u.windows.get w).enable then u else u.listBytes (.window w) [0] := by
  have byteZero (u : State) : recordByte u.view (.window w) 0 = flagByte (u.windows.get w).enable := rfl
  have bytes : recordByte (s.setWindow w (decodeWindow (s.overlay bs (.window w)) (s.windows.get w))).view (.window w) =
      windowByte (decodeWindow (s.overlay bs (.window w)) (s.windows.get w)) := by
    funext o
    simp only [recordByte, State.view, State.setWindow_windows, setAt_get, if_true]
  unfold State.takeWindow State.actEnable
  dsimp only
  rw [bytes, ← State.windowCopied, listDirty_dirtyAction, byteZero]
  cases carried bs (recordOffset (.window w)) <;> rfl

/-! ## Enabling a window -/

@[simp] theorem afterTiming_windows (b s : State) : (State.afterTiming b s).windows = s.windows := by
  refine foldl_keeps State.windows _ (fun u z => ?_) _ _
  unfold State.followTiming
  dsimp only
  split <;> simp

@[simp] theorem afterTiming_services (b s : State) : (State.afterTiming b s).services = s.services := by
  refine foldl_keeps State.services _ (fun u z => ?_) _ _
  unfold State.followTiming
  dsimp only
  split <;> simp

/-- Two ranges that are not empty overlap, modulo 2^32, exactly where they share an address. -/
theorem rangesOverlap_iff (a b : Addr) {n k : Nat} (hn : 0 < n) (hk : 0 < k) : rangesOverlap a n b k = true ↔
    ∃ p : Addr, (p - a).toNat < n ∧ (p - b).toNat < k := by
  unfold rangesOverlap
  rw [Bool.or_eq_true, decide_eq_true_iff, decide_eq_true_iff]
  constructor
  · rintro (h | h)
    · exact ⟨b, h, by simpa using hk⟩
    · exact ⟨a, by simpa using hn, h⟩
  · rintro ⟨p, ha, hb⟩
    bv_omega

theorem mapOverlaps_iff (e f : WindowEntry) : mapOverlaps e f = true ↔ ∃ p : Addr,
    (p - (e.translation.2 &&& 0xFFFFFFFC#32)).toNat < 4 * 2 ^ e.size ∧ (p - f.base).toNat < 1024 * 2 ^ f.size := by
  have start : mapEntryAddr e.translation.2 0 = e.translation.2 &&& 0xFFFFFFFC#32 := by simp [mapEntryAddr]
  unfold mapOverlaps WindowEntry.frames
  rw [start]
  exact rangesOverlap_iff _ _ (by positivity) (by positivity)

/-- The map check of R29 fails: a map region overlaps the window's range, or the window's map region another's range. -/
theorem mapClash_iff (s : State) (w : Fin 16) (e : WindowEntry) : s.mapClash w e = true ↔
    (e.mapped = true ∧ (mapOverlaps e e = true ∨
        ∃ x, x ≠ w ∧ (s.windows.get x).enable = true ∧ mapOverlaps e (s.windows.get x) = true)) ∨
      ∃ x, x ≠ w ∧ ((s.windows.get x).enable = true ∨ (s.windows.get x).retiring = true) ∧
        (s.windows.get x).translation.1 = true ∧ mapOverlaps (s.windows.get x) e = true := by
  simp [State.mapClash, List.any_eq_true, and_assoc]

/-- Of the windows' entries only the other windows' count in the map check. -/
theorem mapClash_congr {s t : State} {w : Fin 16} (h : ∀ x, x ≠ w → t.windows.get x = s.windows.get x) (e : WindowEntry) :
    t.mapClash w e = s.mapClash w e := by
  rw [Bool.eq_iff_iff, mapClash_iff, mapClash_iff]
  have own (p : WindowEntry → Prop) : (∃ x, x ≠ w ∧ p (t.windows.get x)) ↔ ∃ x, x ≠ w ∧ p (s.windows.get x) :=
    exists_congr fun x => and_congr_right fun hx => by rw [h x hx]
  rw [own fun f => f.enable = true ∧ mapOverlaps e f = true,
    own fun f => (f.enable = true ∨ f.retiring = true) ∧ f.translation.1 = true ∧ mapOverlaps f e = true]

/-- The reason code of the first check that fails (R29). -/
theorem enableRefusal_eq (s : State) (w : Fin 16) : s.enableRefusal w =
    if (s.windows.get w).role = none then some 1
    else if (s.services.get (s.windows.get w).service).enable = false then some 2
    else if ¬((s.windows.get w).role = some .program ↔ (s.services.get (s.windows.get w).service).program = true) then some 3
    else if s.mapClash w (s.windows.get w) = true then some 5 else none := by
  unfold State.enableRefusal
  dsimp only
  cases (s.windows.get w).role with
  | none => rfl
  | some r =>
    have kind : ((decide (r = .program) != (s.services.get (s.windows.get w).service).program) = true) ↔
        ¬(some r = some .program ↔ (s.services.get (s.windows.get w).service).program = true) := by
      cases (s.services.get (s.windows.get w).service).program <;> simp
    simp only [kind, reduceCtorEq, if_false]

theorem enableWindow_retiring {s : State} {w : Fin 16} (retiring : (s.windows.get w).retiring = true) :
    s.enableWindow w = s.refuseWindow w 4 := if_pos retiring

theorem enableWindow_enabled {s : State} {w : Fin 16} (retiring : (s.windows.get w).retiring = false)
    (enabled : (s.windows.get w).enable = true) : s.enableWindow w = s := by
  simp [State.enableWindow, retiring, enabled]

theorem enableWindow_checked {s : State} {w : Fin 16} (retiring : (s.windows.get w).retiring = false)
    (disabled : (s.windows.get w).enable = false) : s.enableWindow w =
      match s.enableRefusal w with
      | some reason => s.refuseWindow w reason
      | none => s.acceptWindow w :=
  (if_neg (by simp [retiring])).trans (if_neg (by simp [disabled]))

theorem refuseWindow_windows (s : State) (w : Fin 16) (reason : Nat) : (s.refuseWindow w reason).windows = s.windows :=
  raiseEvent_windows s _ _ _ _

theorem acceptWindow_enable (s : State) (w : Fin 16) : ((s.acceptWindow w).windows.get w).enable = true := by
  simp [State.acceptWindow]

section
variable {s : State} {bs : List WByte} {w : Fin 16} {b : Byte} {u : State}

theorem takeWindow_uncarried (h : carried bs (recordOffset (.window w)) = none) : s.takeWindow bs w = s.windowCopied bs w := by
  rw [takeWindow_eq, h]

/-- An enable that the part does not take up is written back as 0 (R29, R159). -/
theorem takeWindow_stays_off (h : carried bs (recordOffset (.window w)) = some b) (hb : b ≠ 0)
    (acts : (s.windowCopied bs w).enableWindow w = u) (off : (u.windows.get w).enable = false) :
    s.takeWindow bs w = u.listBytes (.window w) [0] := by
  rw [takeWindow_eq, h]
  dsimp only
  rw [if_neg hb, acts, off]
  exact if_neg hb

/-- An enable that the part holds is written back as 1 where the write carried another value (R159). -/
theorem takeWindow_on (h : carried bs (recordOffset (.window w)) = some b) (hb : b ≠ 0)
    (acts : (s.windowCopied bs w).enableWindow w = u) (on : (u.windows.get w).enable = true) :
    s.takeWindow bs w = if b = 1 then u else u.listBytes (.window w) [0] := by
  rw [takeWindow_eq, h]
  dsimp only
  rw [if_neg hb, acts, on]
  rfl

/-- Enable 0 that leaves the window disabled leaves no enable to be written back (R28). -/
theorem takeWindow_off (h : carried bs (recordOffset (.window w)) = some 0)
    (acts : (s.windowCopied bs w).disableWindow w = u) (off : (u.windows.get w).enable = false) :
    s.takeWindow bs w = u := by
  rw [takeWindow_eq, h]
  dsimp only
  rw [if_pos rfl, acts, off]
  exact if_pos rfl

/-- A window that is refused keeps its enable at 0, which is written back (R28, R29). -/
theorem takeWindow_refused {reason : Nat} (h : carried bs (recordOffset (.window w)) = some b) (hb : b ≠ 0)
    (disabled : (s.windows.get w).enable = false)
    (acts : (s.windowCopied bs w).enableWindow w = (s.windowCopied bs w).refuseWindow w reason) :
    s.takeWindow bs w = ((s.windowCopied bs w).refuseWindow w reason).listBytes (.window w) [0] :=
  takeWindow_stays_off h hb acts (by rw [refuseWindow_windows, windowCopied_enable, disabled])
end

theorem disableWindow_disabled {s : State} {w : Fin 16} (disabled : (s.windows.get w).enable = false) :
    s.disableWindow w = s := by
  simp [State.disableWindow, disabled]

/-- Settles O48: the copy first, then the checks in the order of `enableRefusal_eq`. -/
theorem windowEnabled : Obligations.WindowEnabled := by
  refine ⟨?_, fun s w => ⟨enableWindow_retiring, enableWindow_enabled, disableWindow_disabled⟩⟩
  intro s bs w raw old e s2 held v region range overlap clash ends refused
  have copied : s.windowCopied bs w = s2 := rfl
  have enable : (s2.windows.get w).enable = old.enable := windowCopied_enable s bs w
  have retire : (s2.windows.get w).retiring = old.retiring := windowCopied_retiring s bs w
  have entry : s2.windows.get w = e := windowCopied_entry s bs w
  have service : s2.services = s.services := windowCopied_services s bs w
  refine ⟨takeWindow_uncarried, fun h off => ?_, fun b h hb => ⟨fun r on => ?_, fun r off => ?_, fun r off => ?_⟩⟩
  · exact takeWindow_off h (disableWindow_disabled (enable.trans off)) (enable.trans off)
  · exact takeWindow_on h hb (enableWindow_enabled (retire.trans r) (enable.trans on)) (enable.trans on)
  · exact takeWindow_refused h hb off (enableWindow_retiring (retire.trans r))
  have clashes : s2.mapClash w e = true ↔ clash := by
    have others : ∀ x, x ≠ w → s2.windows.get x = s.windows.get x := fun x hx => by
      rw [← copied, windowCopied_windows, if_neg (Ne.symm hx)]
    rw [mapClash_congr others, mapClash_iff]
    simp only [mapOverlaps_iff]
    rfl
  have checked := enableWindow_checked (retire.trans r) (enable.trans off)
  rw [enableRefusal_eq, entry, service] at checked
  have refuse {reason : Nat} (acts : s2.enableWindow w = s2.refuseWindow w reason) : refused reason :=
    takeWindow_refused h hb off acts
  refine ⟨fun role => refuse ?_, fun role von => refuse ?_, fun role von kind => refuse ?_,
    fun role von kind hit => refuse ?_, fun role von kind hit => ?_⟩
  · rw [checked, if_pos role]
  · rw [checked, if_neg role, if_pos von]
  · rw [checked, if_neg role, if_neg (by simp [v, von]), if_pos kind]
  · rw [checked, if_neg role, if_neg (by simp [v, von]), if_neg (not_not.mpr kind), if_pos (clashes.mpr hit)]
  · have accepted : s2.enableWindow w = s2.acceptWindow w := by
      rw [checked, if_neg role, if_neg (by simp [v, von]), if_neg (not_not.mpr kind), if_neg (mt clashes.mp hit)]
    have taken := takeWindow_on h hb accepted (acceptWindow_enable s2 w)
    rw [State.acceptWindow, entry] at taken
    exact taken

/-! ## What a flush keeps: the windows and the enables of the services -/

/-- What decides the enables that the part holds: the window entries, and of each service its enable. -/
def State.switches (s : State) : Vector WindowEntry 16 × (Fin 8 → Bool) :=
  (s.windows, fun v => (s.services.get v).enable)

theorem switches_windows {s t : State} (h : s.switches = t.switches) : s.windows = t.windows := congrArg (·.1) h

theorem switches_enable {s t : State} (h : s.switches = t.switches) (v : Fin 8) :
    (s.services.get v).enable = (t.services.get v).enable := congrFun (congrArg (·.2) h) v

theorem switches_of_same {s t : State} (windows : s.windows = t.windows) (services : s.services = t.services) :
    s.switches = t.switches := by
  unfold State.switches
  rw [windows, services]

@[simp] theorem setService_switches (s : State) (v : Fin 8) (e : ServiceEntry) (h : e.enable = (s.services.get v).enable) :
    (s.setService v e).switches = s.switches := by
  have enables : (fun x => ((setAt s.services v e).get x).enable) = fun x => (s.services.get x).enable := by
    funext x
    rw [setAt_get]
    split
    · next here => rw [h, here]
    · rfl
  exact congrArg (Prod.mk s.windows) enables

@[simp] theorem setSlot_switches (s : State) (n : Fin 16) (t : Slot) : (s.setSlot n t).switches = s.switches := rfl

@[simp] theorem setSegment_switches (s : State) (g : Fin 12) (e : SegmentEntry) : (s.setSegment g e).switches = s.switches :=
  rfl

@[simp] theorem setStage_switches (s : State) (m : Fin 16) (st : Stage) : (s.setStage m st).switches = s.switches := rfl

@[simp] theorem issue_switches (s : State) (m : Fin 16) (i : Issue) : (s.issue m i).switches = s.switches := rfl

@[simp] theorem list_switches (s : State) (id : RecordId) : (s.list id).switches = s.switches := rfl

@[simp] theorem listIf_switches (s : State) (b : Bool) (id : RecordId) : (s.listIf b id).switches = s.switches :=
  switches_of_same (State.listIf_windows s b id) (State.listIf_services s b id)

@[simp] theorem respond_switches (s : State) (m : Fin 16) (ok : Bool) (d : List Word) :
    (s.respond m ok d).switches = s.switches := rfl

@[simp] theorem snoop_switches (s : State) (src : HazardSource) (a : Addr) (n : Nat) :
    (s.snoop src a n).switches = s.switches := rfl

@[simp] theorem endAlloc_switches (s : State) (p : PendingAlloc) : (s.endAlloc p).switches = s.switches := rfl

@[simp] theorem raiseFault_switches (s : State) (k : FaultKind) (n : Nat) (a : Addr) (w : Option (Fin 16)) :
    (s.raiseFault k n a w).switches = s.switches :=
  switches_of_same (raiseFault_leaves s k n a w).1 (raiseFault_services s k n a w)

@[simp] theorem raiseEvent_switches (s : State) (k : EventKind) (o : Nat) (t : Byte) (r : Nat) :
    (s.raiseEvent k o t r).switches = s.switches := by
  obtain ⟨events, lost, l, frame⟩ := raiseEvent_frame s k o t r
  rw [frame]
  rfl

@[simp] theorem countLate_switches (s : State) (g : Fin 12) : (s.countLate g).switches = s.switches := by
  simp [State.countLate]

@[simp] theorem countSequence_switches (s : State) (g : Fin 12) : (s.countSequence g).switches = s.switches := by
  simp [State.countSequence]

@[simp] theorem countFlushError_switches (s : State) (v : Fin 8) : (s.countFlushError v).switches = s.switches := by
  simp [State.countFlushError]

@[simp] theorem countFrame_switches (s : State) (v : Fin 8) (o : SlotOutcome) : (s.countFrame v o).switches = s.switches := by
  unfold State.countFrame
  dsimp only
  split <;> simp

@[simp] theorem translate_switches (s : State) (o : Owner) (w : Fin 16) (f : Nat) (d : Option Addr) (own : Bool) :
    (s.translate o w f d own).2.switches = s.switches := by
  have join (r : TransReq) : (s.joinQueue r).switches = s.switches := by
    unfold State.joinQueue
    split <;> rfl
  have touch (c : CacheEntry) : (s.touchCache c).switches = s.switches := rfl
  unfold State.translate
  dsimp only
  repeat' split
  all_goals simp [join, touch]

@[simp] theorem accountMisses_switches (s : State) (t : Slot) (o : SlotOutcome) :
    (s.accountMisses t o).switches = s.switches := by
  have handed (u : State) (l : List (Fin 12)) : ({ u with handovers := l } : State).switches = u.switches := rfl
  have charged (u : State) (g : Fin 12) (e : SegmentEntry) (b : Bool) :
      ((u.setSegment g e).listIf b (.segment g)).switches = u.switches := by simp
  unfold State.accountMisses
  split
  · rfl
  · refine foldl_keeps State.switches _ (fun u g => ?_) _ _
    unfold State.accountSegment
    dsimp only
    split
    · exact charged _ _ _ _
    · split
      · exact (handed _ _).trans (charged _ _ _ _)
      · exact charged _ _ _ _

@[simp] theorem beginFlush_switches (s : State) (n : Fin 16) (o : SlotOutcome) :
    (s.beginFlush n o).2.switches = s.switches := by
  unfold State.beginFlush State.enterFlushing
  dsimp only
  split <;> simp

@[simp] theorem issueBursts_switches (s : State) (n : Fin 16) (p : Addr) : (s.issueBursts n p).switches = s.switches :=
  foldl_keeps State.switches _ (fun u _ => snoop_switches u _ _ _) _ _

@[simp] theorem deliver_switches (s : State) (m : Fin 16) (a : Access) (h : WinHit) (t : Treatment) (own : Bool) (p : Addr) :
    (s.deliver m a h t own p).switches = s.switches := by
  unfold State.deliver State.issueClip State.underrun
  dsimp only
  repeat' split
  all_goals simp

@[simp] theorem sendThrough_switches (s : State) (m : Fin 16) (a : Access) (h : WinHit) (t : Treatment) (own : Bool) :
    (s.sendThrough m a h t own).switches = s.switches := by
  unfold State.sendThrough State.respondDropped
  dsimp only
  split <;> simp

@[simp] theorem freeAfterFlush_switches (s : State) (n : Fin 16) : (s.freeAfterFlush n).switches = s.switches := by
  rw [freeAfterFlush_eq]
  refine (foldl_keeps State.switches _ (fun u m => ?_) _ _).trans (by simp [State.flushRecorded])
  unfold State.releaseRead
  repeat' split
  all_goals simp

@[simp] theorem serveAlloc_switches (s : State) (p : PendingAlloc) : (s.serveAlloc p).switches = s.switches := by
  unfold State.serveAlloc
  split
  · refine (foldl_keeps State.switches _ (fun u m => ?_) _ _).trans (by simp [State.allocate])
    unfold State.contributeWaiting State.contribute State.updateGate
    dsimp only
    repeat' split
    all_goals simp
  · refine foldl_keeps State.switches _ (fun u m => ?_) _ _
    unfold State.dropWaiting
    split <;> simp

theorem endFlush_switches (n : Fin 16) : ∀ (k : Nat) (s : State), (State.endFlush k n s).switches = s.switches
  | 0, _ => rfl
  | k + 1, s => by
    unfold State.endFlush
    dsimp only
    repeat' split
    all_goals simp [endFlush_switches n k]

@[simp] theorem startFlush_switches (s : State) (n : Fin 16) (o : SlotOutcome) : (s.startFlush n o).switches = s.switches := by
  unfold State.startFlush State.flushRefused State.flushEnds
  dsimp only
  split <;> simp [endFlush_switches]

theorem retireSlots_switches (s : State) (w : Fin 16) : (s.retireSlots w).switches = s.switches := by
  refine foldl_keeps State.switches _ (fun u n => ?_) _ _
  unfold State.retireSlot
  split <;> simp

/-! ## Retirement -/

theorem beginRetiring_enable (s : State) (w x : Fin 16) : ((s.beginRetiring w).windows.get x).enable =
    if w = x then false else (s.windows.get x).enable := by
  simp only [State.beginRetiring, State.list_windows, State.setWindow_windows, setAt_get]
  split <;> rfl

/-- The end of a retirement leaves every enable alone (R32). -/
theorem endRetirement_enable (s : State) (w x : Fin 16) :
    ((s.endRetirement w).windows.get x).enable = (s.windows.get x).enable := by
  unfold State.endRetirement
  split
  · simp only [State.list_windows, State.setWindow_windows, setAt_get]
    split
    · next here => rw [← here]
    · rfl
  · rfl

theorem endRetirement_services (s : State) (w : Fin 16) : (s.endRetirement w).services = s.services := by
  unfold State.endRetirement
  split <;> rfl

/-- Retirement leaves the enables of the services alone (R30). -/
theorem retireWindows_service_enable (s : State) (ws : List (Fin 16)) (v : Fin 8) :
    ((s.retireWindows ws).services.get v).enable = (s.services.get v).enable := by
  have ended (u : State) : (ws.foldl State.endRetirement u).services = u.services :=
    foldl_keeps State.services _ endRetirement_services ws u
  have flushed (u : State) : (ws.foldl State.retireSlots u).switches = u.switches :=
    foldl_keeps State.switches _ retireSlots_switches ws u
  have begun (u : State) : (ws.foldl State.beginRetiring u).services = u.services :=
    foldl_keeps State.services State.beginRetiring (fun _ _ => rfl) ws u
  unfold State.retireWindows
  rw [ended, switches_enable (flushed _), afterTiming_services, begun]

theorem retireWindows_one (s : State) (w : Fin 16) : s.retireWindows [w] =
    ((State.afterTiming s (s.beginRetiring w)).retireSlots w).endRetirement w := by
  simp only [State.retireWindows, List.foldl_cons, List.foldl_nil]

/-- A window that retires is disabled when its retirement has begun, and stays so (R30). -/
theorem retireWindow_enable (s : State) (w : Fin 16) : ((s.retireWindows [w]).windows.get w).enable = false := by
  rw [retireWindows_one, endRetirement_enable, switches_windows (retireSlots_switches _ w), afterTiming_windows,
    beginRetiring_enable, if_pos rfl]

theorem disableWindow_enabled {s : State} {w : Fin 16} (enabled : (s.windows.get w).enable = true) :
    s.disableWindow w = s.retireWindows [w] := if_pos enabled

/-! ## A service entry -/

/-- The state after a service's copy has taken a write's bytes, before the enable acts (R158, R159). -/
def State.serviceCopied (s : State) (bs : List WByte) (v : Fin 8) : State :=
  let raw := s.overlay bs (.service v)
  let e := decodeService raw (s.services.get v)
  (s.setService v e).listDirty (.service v) (changedBytes serviceSpans raw (serviceByte e))

theorem serviceCopied_windows (s : State) (bs : List WByte) (v : Fin 8) : (s.serviceCopied bs v).windows = s.windows := by
  simp [State.serviceCopied]

theorem serviceCopied_entry (s : State) (bs : List WByte) (v : Fin 8) :
    (s.serviceCopied bs v).services.get v = decodeService (s.overlay bs (.service v)) (s.services.get v) := by
  simp [State.serviceCopied]

/-- The copy takes the values first, then the enable acts, and an enable that the part does not hold is written back. -/
theorem takeService_eq (s : State) (bs : List WByte) (v : Fin 8) : s.takeService bs v =
    match carried bs (recordOffset (.service v)) with
    | none => s.serviceCopied bs v
    | some b =>
      let u := if b = 0 then (s.serviceCopied bs v).disableService v else (s.serviceCopied bs v).enableService v
      if b = flagByte (u.services.get v).enable then u else u.listBytes (.service v) [0] := by
  have byteZero (u : State) : recordByte u.view (.service v) 0 = flagByte (u.services.get v).enable := rfl
  have bytes : recordByte (s.setService v (decodeService (s.overlay bs (.service v)) (s.services.get v))).view (.service v) =
      serviceByte (decodeService (s.overlay bs (.service v)) (s.services.get v)) := by
    funext o
    simp only [recordByte, State.view, State.setService_services, setAt_get, if_true]
  unfold State.takeService State.actEnable
  dsimp only
  rw [bytes, ← State.serviceCopied, listDirty_dirtyAction, byteZero]
  cases carried bs (recordOffset (.service v)) <;> rfl

/-- A service that was enabled is disabled, and its enabled windows retire (R179). -/
theorem disableService_enabled {s : State} {v : Fin 8} (enabled : (s.services.get v).enable = true) :
    s.disableService v = ((s.windowsOf v).foldl State.listEnable
      (State.afterTiming s (s.setService v { s.services.get v with enable := false }))).retireWindows (s.windowsOf v) :=
  if_pos enabled

theorem disableService_enable {s : State} {v : Fin 8} (enabled : (s.services.get v).enable = true) :
    ((s.disableService v).services.get v).enable = false := by
  have listed (ws : List (Fin 16)) (u : State) : (ws.foldl State.listEnable u).services = u.services :=
    foldl_keeps State.services State.listEnable (fun _ _ => rfl) ws u
  rw [disableService_enabled enabled, retireWindows_service_enable, listed, afterTiming_services]
  simp

theorem windowsOf_eq {s t : State} (windows : t.windows = s.windows) (v : Fin 8) : t.windowsOf v =
    (List.finRange 16).filter (fun w => (s.windows.get w).enable = true ∧ (s.windows.get w).service = v) := by
  unfold State.windowsOf
  rw [windows]
  exact List.filter_congr fun w _ => by rw [Bool.eq_iff_iff]; simp

theorem windowBusy_iff (s : State) (w : Fin 16) : s.windowBusy w = true ↔
    (∃ n, (s.slots.get n).state ≠ .free ∧ (s.slots.get n).window = w) ∨ ∃ m, (s.stage m).window = some w := by
  simp [State.windowBusy]

/-- Settles O49: a window's disable and a service's are the one retirement of the windows concerned, after which the part
holds the enable as written. -/
theorem windowsRetire : Obligations.WindowsRetire := by
  refine ⟨fun s bs w h on => ?_, fun s bs v h on => ?_, fun s w => ⟨rfl, rfl, fun retiring free => ?_, fun stays => ?_,
    windowBusy_iff s w⟩⟩
  · intro raw e s2
    have copied : s.windowCopied bs w = s2 := rfl
    have enabled := (windowCopied_enable s bs w).trans on
    have taken := takeWindow_off h (disableWindow_enabled enabled) (retireWindow_enable _ w)
    rw [retireWindows_one, copied] at taken
    exact taken
  · intro raw e ws s2 off marked
    have copied : s.serviceCopied bs v = s2 := rfl
    have entry : s2.services.get v = e := serviceCopied_entry s bs v
    have enabled : (s2.services.get v).enable = true := by
      rw [entry]
      exact on
    have windows : s2.windows = s.windows := serviceCopied_windows s bs v
    have acts := disableService_enabled enabled
    rw [windowsOf_eq windows, entry] at acts
    rw [takeService_eq, h, copied]
    dsimp only
    rw [if_pos rfl, disableService_enable enabled]
    exact acts
  · exact endRetirement_of_ends (by simp [State.ends, retiring, free])
  · refine endRetirement_of_not_ends ?_
    rcases stays with retiring | busy
    · simp [State.ends, retiring]
    · simp [State.ends, busy]
end Sys2Proof.Machine
end

section
/-! The Frame Translator: the translation queue and its map fetches (R38 to R42, R44, R45), and what a hard reset leaves of
it (R47, R177). -/

namespace Sys2Proof.Machine

/-! ## The translation queue (R40) -/

theorem joinFromWait_of_place {s : State} {r : TransReq} {rest : List TransReq} (waits : s.translationWaits = r :: rest)
    (place : s.translations.length < 8) :
    s.joinFromWait = { s with translations := s.translations ++ [r], translationWaits := rest } := by
  unfold State.joinFromWait
  rw [waits]
  exact if_pos place

theorem exec_translationQueueJoin {s : State} (rest : s.AtRest) :
    exec .translationQueueJoin s = .next s.joinFromWait.settle := by
  show done s.catchUp.joinFromWait = _
  rw [catchUp_rest s rest]
  rfl

/-! ## The issue of a map fetch (R41) -/

theorem underHazard_iff (s : State) (a : Addr) :
    s.hazards.any (fun h => h.addr == a) = true ↔ ∃ h ∈ s.hazards, h.addr = a := by
  simp only [List.any_eq_true, beq_iff_eq]

/-- The request to fetch for is the first in the queue that is under no hazard. -/
theorem fetchable_of_first {s : State} {before after : List TransReq} {r : TransReq}
    (queue : s.translations = before ++ r :: after) (barred : ∀ x ∈ before, ∃ h ∈ s.hazards, h.addr = x.mapAddr)
    (free : ∀ h ∈ s.hazards, h.addr ≠ r.mapAddr) : s.fetchable = some r := by
  refine List.find?_eq_some_iff_append.mpr ⟨?_, before, after, queue, fun x hx => ?_⟩
  · have notBarred : ¬∃ h ∈ s.hazards, h.addr = r.mapAddr := fun ⟨h, mem, same⟩ => free h mem same
    rw [Bool.not_eq_true']
    exact Bool.eq_false_iff.mpr (mt (underHazard_iff s r.mapAddr).mp notBarred)
  · rw [Bool.not_not]
    exact (underHazard_iff s x.mapAddr).mpr (barred x hx)

theorem issueFetch_of_fetchable {s : State} {r : TransReq} (idle : s.fetch = none) (next : s.fetchable = some r) :
    s.issueFetch = { s with fetch := some { request := r, discard := false } } := by
  unfold State.issueFetch
  rw [idle, next]

theorem exec_mapFetchIssue {s : State} (rest : s.AtRest) : exec .mapFetchIssue s = .next s.issueFetch.settle := by
  show done s.catchUp.issueFetch = _
  rw [catchUp_rest s rest]
  rfl

/-- Settles O28: the oldest request that waits joins the queue, and the fetch is for the first request under no hazard. -/
theorem translationQueueServed : Obligations.TranslationQueueServed := by
  refine ⟨fun s r waits rest front place => ?_, fun s before after r rest idle queue barred free => ⟨?_, rfl⟩⟩
  · rw [exec_translationQueueJoin rest, joinFromWait_of_place front place]
  · rw [exec_mapFetchIssue rest, issueFetch_of_fetchable idle (fetchable_of_first queue barred free)]

/-! ## The completion of a map fetch (R42) -/

theorem exec_mapFetchComplete {s : State} {f : MapFetch} (rest : s.AtRest) (inFlight : s.fetch = some f) (ok : Bool)
    (entry : Word) : exec (.mapFetchComplete ok entry) s = .next (s.completeFetch f ok entry).settle := by
  show execMapFetchComplete ok entry s = _
  unfold execMapFetchComplete
  rw [catchUp_rest s rest, inFlight]
  rfl

theorem mapEntryValid_iff (s : State) (entry : Word) :
    s.mapEntryValid entry = true ↔ entry.getLsbD 0 = true ∧ s.inRegion (frameBase entry) = false := by
  unfold State.mapEntryValid
  rw [Bool.and_eq_true, Bool.not_eq_true']

section
variable {s : State} {f : MapFetch}

theorem completeFetch_discarded (marked : f.discard = true) (ok : Bool) (entry : Word) :
    s.completeFetch f ok entry = { s with fetch := none } := if_pos marked

theorem completeFetch_error (live : f.discard = false) (entry : Word) :
    s.completeFetch f false entry = s.failFetch f.request .mapError := by
  unfold State.completeFetch
  rw [live]
  rfl

theorem completeFetch_valid {entry : Word} (live : f.discard = false) (valid : s.mapEntryValid entry = true) :
    s.completeFetch f true entry = s.fillFetch f.request entry := by
  unfold State.completeFetch
  rw [live, valid]
  rfl

theorem completeFetch_invalid {entry : Word} (live : f.discard = false) (invalid : ¬s.mapEntryValid entry = true) :
    s.completeFetch f true entry = s.failFetch f.request .unmapped := by
  unfold State.completeFetch
  rw [live, Bool.eq_false_iff.mpr invalid]
  rfl

end

/-! ## The answers to a group's requests (R42, R45) -/

section
variable {s : State} {r : TransReq}

theorem giveRequest_master {m : Fin 16} {a : Access} {hit : WinHit} {t : Treatment} {own : Bool} (owner : r.owner = .master m)
    (front : s.front m = some a) (stage : s.stage m = .translating hit t own) (phys : Addr) :
    State.giveRequest phys s r = s.deliver m a hit t own phys := by
  unfold State.giveRequest
  rw [owner]
  dsimp only
  unfold State.giveMaster
  rw [front, stage]

theorem refuseRequest_master {m : Fin 16} {a : Access} {hit : WinHit} {t : Treatment} {own : Bool}
    (owner : r.owner = .master m) (front : s.front m = some a) (stage : s.stage m = .translating hit t own) :
    State.refuseRequest s r = s.respondDropped m a := by
  unfold State.refuseRequest
  rw [owner]
  dsimp only
  unfold State.refuseMaster
  rw [front, stage]

theorem giveRequest_flush {n : Fin 16} (owner : r.owner = .flush n) (phys : Addr) :
    State.giveRequest phys s r = s.issueBursts n phys := by
  unfold State.giveRequest
  rw [owner]

theorem refuseRequest_flush {n : Fin 16} (owner : r.owner = .flush n) : State.refuseRequest s r = s.flushRefused n := by
  unfold State.refuseRequest
  rw [owner]

end

/-- Settles O29: the four outcomes of a completed fetch, and what giving and refusing do to a request by its owner. -/
theorem mapFetchCompleted : Obligations.MapFetchCompleted := by
  refine ⟨fun s f ok entry atRest inFlight => ?_,
    fun s r m a hit t own phys owner front stage =>
      ⟨giveRequest_master owner front stage phys, refuseRequest_master owner front stage⟩,
    fun s r n phys owner => ⟨giveRequest_flush owner phys, refuseRequest_flush owner⟩⟩
  intro r inGroup group rest master phys valid ends
  have ended {u : State} (completed : s.completeFetch f ok entry = u) : ends u := by
    rw [← completed]
    exact exec_mapFetchComplete atRest inFlight ok entry
  have failed (k : FaultKind) : s.failFetch r k =
      group.foldl State.refuseRequest (rest.raiseFault k master r.mapAddr (some r.window)) := rfl
  refine ⟨fun marked => ended (completeFetch_discarded marked ok entry), fun live error => ended ?_,
    fun live answered invalid => ended ?_, fun live answered isValid => ended ?_⟩
  · rw [error, completeFetch_error live, failed]
  · rw [answered, completeFetch_invalid live (mt (mapEntryValid_iff s entry).mp invalid), failed]
  · rw [answered, completeFetch_valid live ((mapEntryValid_iff s entry).mpr isValid)]
    rfl

/-! ## What a hard reset leaves (R47) -/

theorem hardReset_flushAccesses (s : State) : s.hardReset.flushAccesses = [] := by
  have bursts : (List.finRange 16).flatMap s.hardReset.unansweredBursts = [] := by
    refine List.flatMap_eq_nil_iff.mpr fun n _ => ?_
    have slot : s.hardReset.slots.get n = slotReset := Vector.get_replicate 16 slotReset n
    unfold State.unansweredBursts
    rw [slot]
    rfl
  unfold State.flushAccesses
  rw [bursts]
  rfl

/-- No block has an access at the memory port after a hard reset. -/
theorem hardReset_memoryPort (s : State) : s.hardReset.memoryPort = [] := by
  have masters : ((List.finRange 16).flatMap fun m => (s.hardReset.stage m).portAccesses) = [] := by
    refine List.flatMap_eq_nil_iff.mpr fun m _ => ?_
    have port : s.hardReset.ports.get m = { queue := [], stage := .waiting } := Vector.get_replicate 16 _ m
    unfold State.stage
    rw [port]
    rfl
  unfold State.memoryPort
  rw [masters, hardReset_flushAccesses]
  rfl

/-- Settles O13: every field of the Translator is at its hard-reset value, and no block has an access at the memory port. -/
theorem translatorHardReset : Obligations.TranslatorHardReset := by
  intro s
  refine ⟨s.hardReset, congrArg Host.Outcome.next (settle_hardReset s), rfl, rfl, rfl, rfl, rfl, hardReset_memoryPort s, rfl,
    fun w => ?_, rfl, rfl⟩
  have window : s.hardReset.windows.get w = windowReset := Vector.get_replicate 16 windowReset w
  rw [window]
  exact ⟨rfl, rfl⟩

end Sys2Proof.Machine
end

section
/-! What the promises about the combine store look at (R49, R64), and the operations that leave it alone. -/

namespace Sys2Proof.Machine

/-- What `State.FrameSound` and `State.ExpectSound` look at: the slots, the pending allocations, the departure notices and the
states of the segments. -/
def State.storeView (s : State) : Vector Slot 16 × List PendingAlloc × List (Fin 12) × (Fin 12 → SegState) :=
  (s.slots, s.allocs, s.departures, fun g => (s.segments.get g).state)

/-! ## Updates of single places -/

@[simp] theorem setStage_storeView (s : State) (m : Fin 16) (st : Stage) : (s.setStage m st).storeView = s.storeView := rfl

@[simp] theorem setWindow_storeView (s : State) (w : Fin 16) (e : WindowEntry) : (s.setWindow w e).storeView = s.storeView :=
  rfl

@[simp] theorem setService_storeView (s : State) (v : Fin 8) (e : ServiceEntry) :
    (s.setService v e).storeView = s.storeView := rfl

@[simp] theorem setZone_storeView (s : State) (z : Fin 8) (r : ZoneRecord) : (s.setZone z r).storeView = s.storeView := rfl

@[simp] theorem setCue_storeView (s : State) (c : Fin 32) (e : CueEntry) : (s.setCue c e).storeView = s.storeView := rfl

/-- A segment entry that keeps its state. -/
@[simp] theorem setSegment_storeView (s : State) (g : Fin 12) (e : SegmentEntry) (h : e.state = (s.segments.get g).state) :
    (s.setSegment g e).storeView = s.storeView := by
  have states : (fun x => ((setAt s.segments g e).get x).state) = fun x => (s.segments.get x).state := by
    funext x
    rw [setAt_get]
    split
    · next here => rw [h, here]
    · rfl
  exact congrArg (fun f => (s.slots, s.allocs, s.departures, f)) states

@[simp] theorem listBytes_storeView (s : State) (id : RecordId) (l : List Nat) : (s.listBytes id l).storeView = s.storeView :=
  rfl

@[simp] theorem list_storeView (s : State) (id : RecordId) : (s.list id).storeView = s.storeView := rfl

@[simp] theorem listIf_storeView (s : State) (b : Bool) (id : RecordId) : (s.listIf b id).storeView = s.storeView := by
  cases b <;> rfl

@[simp] theorem listDirty_storeView (s : State) (id : RecordId) (l : List Nat) :
    (s.listDirty id l).storeView = s.storeView := by
  unfold State.listDirty
  split <;> rfl

@[simp] theorem handovers_storeView (s : State) (l : List (Fin 12)) :
    ({ s with handovers := l } : State).storeView = s.storeView := rfl

/-! ## Faults, events and the port -/

@[simp] theorem raiseEvent_storeView (s : State) (k : EventKind) (o : Nat) (t : Byte) (r : Nat) :
    (s.raiseEvent k o t r).storeView = s.storeView := by
  obtain ⟨_, _, _, frame⟩ := raiseEvent_frame s k o t r
  rw [frame]
  rfl

@[simp] theorem raiseFault_storeView (s : State) (k : FaultKind) (n : Nat) (a : Addr) (w : Option (Fin 16)) :
    (s.raiseFault k n a w).storeView = s.storeView := by
  obtain ⟨_, _, _, _, _, _, frame⟩ := raiseFault_frame s k n a w
  rw [frame]
  rfl

@[simp] theorem clearFault_storeView (s : State) (c : Bool) : (s.clearFault c).storeView = s.storeView := by
  have record (r : FaultRecord) : (s.setFaultRecord c r).storeView = s.storeView := by
    unfold State.setFaultRecord
    split <;> exact listIf_storeView _ _ _
  unfold State.clearFault
  split
  · exact record _
  · rfl

@[simp] theorem respond_storeView (s : State) (m : Fin 16) (ok : Bool) (d : List Word) :
    (s.respond m ok d).storeView = s.storeView := rfl

@[simp] theorem respondDropped_storeView (s : State) (m : Fin 16) (a : Access) :
    (s.respondDropped m a).storeView = s.storeView := rfl

@[simp] theorem snoop_storeView (s : State) (src : HazardSource) (a : Addr) (n : Nat) :
    (s.snoop src a n).storeView = s.storeView := rfl

theorem takeRequests_storeView (l : List Access) : ∀ s : State, (takeRequests l s).storeView = s.storeView := by
  induction l with
  | nil => exact fun _ => rfl
  | cons a rest ih =>
    intro s
    unfold takeRequests
    split
    · exact ih _
    · rfl

@[simp] theorem endRetirement_storeView (s : State) (w : Fin 16) : (s.endRetirement w).storeView = s.storeView := by
  unfold State.endRetirement
  split <;> rfl

@[simp] theorem settle_storeView (s : State) : s.settle.storeView = s.storeView :=
  (takeRequests_storeView _ _).trans (foldl_keeps State.storeView _ endRetirement_storeView _ s)

/-! ## The Frame Translator and the memory path -/

@[simp] theorem translate_storeView (s : State) (o : Owner) (w : Fin 16) (f : Nat) (d : Option Addr) (own : Bool) :
    (s.translate o w f d own).2.storeView = s.storeView := by
  have join (r : TransReq) : (s.joinQueue r).storeView = s.storeView := by
    unfold State.joinQueue
    split <;> rfl
  have touch (c : CacheEntry) : (s.touchCache c).storeView = s.storeView := rfl
  unfold State.translate
  dsimp only
  repeat' split
  all_goals simp [join, touch]

@[simp] theorem issue_storeView (s : State) (m : Fin 16) (i : Issue) : (s.issue m i).storeView = s.storeView := rfl

@[simp] theorem passUnchanged_storeView (s : State) (m : Fin 16) (a : Access) :
    (s.passUnchanged m a).storeView = s.storeView := rfl

@[simp] theorem underrun_storeView (s : State) (m : Fin 16) (a : Access) (d : Fin 8) :
    (s.underrun m a d).storeView = s.storeView := by
  simp [State.underrun]

@[simp] theorem deliver_storeView (s : State) (m : Fin 16) (a : Access) (h : WinHit) (t : Treatment) (own : Bool) (p : Addr) :
    (s.deliver m a h t own p).storeView = s.storeView := by
  unfold State.deliver State.issueClip
  dsimp only
  repeat' split
  all_goals simp

@[simp] theorem sendThrough_storeView (s : State) (m : Fin 16) (a : Access) (h : WinHit) (t : Treatment) (own : Bool) :
    (s.sendThrough m a h t own).storeView = s.storeView := by
  unfold State.sendThrough
  dsimp only
  split <;> simp

@[simp] theorem giveMaster_storeView (s : State) (m : Fin 16) (p : Addr) : (s.giveMaster m p).storeView = s.storeView := by
  unfold State.giveMaster
  split <;> simp

@[simp] theorem refuseMaster_storeView (s : State) (m : Fin 16) : (s.refuseMaster m).storeView = s.storeView := by
  unfold State.refuseMaster
  split <;> simp

theorem finishMix_storeView (s : State) (m : Fin 16) (a : Access) (v : MixValues) (r : Answer) (c : List Word) :
    (s.finishMix m a v r c).storeView = s.storeView := by
  unfold State.finishMix
  split <;> rfl

theorem answerAccess_storeView (s : State) (m : Fin 16) (a : Access) (i : Issue) (r : Answer) :
    (s.answerAccess m a i r).storeView = s.storeView := by
  unfold State.answerAccess State.memoryError
  dsimp only
  repeat' split
  all_goals simp [finishMix_storeView]

theorem answerClip_storeView (s : State) (m : Fin 16) (a : Access) (i : Issue) (r : Answer) :
    (s.answerClip m a i r).storeView = s.storeView := by
  unfold State.answerClip
  dsimp only
  repeat' split
  all_goals simp [finishMix_storeView]

theorem answerSource_storeView (s : State) (m : Fin 16) (a : Access) (i : Issue) (r : Answer) :
    (s.answerSource m a i r).storeView = s.storeView := by
  unfold State.answerSource
  repeat' split
  all_goals simp

theorem withIssued_storeView (s : State) (m : Fin 16) (r : Answer) (f : Access → Issue → State)
    (h : ∀ a i, (f a i).storeView = s.storeView) : (s.withIssued m r f).storeView = s.storeView := by
  unfold State.withIssued
  repeat' split
  · exact h _ _
  · rfl
  · rfl

theorem issueFetch_storeView (s : State) : s.issueFetch.storeView = s.storeView := by
  unfold State.issueFetch
  repeat' split
  all_goals rfl

theorem joinFromWait_storeView (s : State) : s.joinFromWait.storeView = s.storeView := by
  unfold State.joinFromWait
  repeat' split
  all_goals rfl

/-! ## Downlink and programme traffic -/

theorem treatDownlinkRead_storeView (s : State) (m : Fin 16) (a : Access) (h : WinHit) :
    (s.treatDownlinkRead m a h).storeView = s.storeView := by
  unfold State.treatDownlinkRead
  repeat' split
  all_goals simp

@[simp] theorem raiseCue_storeView (s : State) (k : EventKind) (c : Fin 32) (r : Nat) :
    (s.raiseCue k c r).storeView = s.storeView := raiseEvent_storeView _ _ _ _ _

@[simp] theorem endCheck_storeView (s : State) (c : Fin 32) (r : CueReason) : (s.endCheck c r).storeView = s.storeView := by
  unfold State.endCheck
  dsimp only
  split <;> simp

@[simp] theorem dropWaits_storeView (s : State) (c : Fin 32) : (s.dropWaits c).storeView = s.storeView := by
  simp [State.dropWaits]

@[simp] theorem startCue_storeView (s : State) (c : Fin 32) (host : Bool) : (s.startCue c host).storeView = s.storeView := by
  have refused (r : CueReason) : (s.refuseStart c r).storeView = s.storeView := by simp [State.refuseStart]
  have cancelled (u : State) (d : Fin 32) : (u.cancelIfQueued d).storeView = u.storeView := by
    unfold State.cancelIfQueued State.cancelCue
    split <;> simp
  unfold State.startCue State.acceptStart
  repeat' split
  · simp
  · exact (foldl_keeps State.storeView _ cancelled _ _).trans (refused _)
  · exact refused _

@[simp] theorem stopCue_storeView (s : State) (c : Fin 32) : (s.stopCue c).storeView = s.storeView := by
  have dropped : ((List.finRange 8).foldl (State.dropStack c) s).storeView = s.storeView := by
    refine foldl_keeps State.storeView _ (fun u z => ?_) _ _
    unfold State.dropStack
    dsimp only
    split <;> simp
  unfold State.stopCue
  dsimp only
  repeat' split
  all_goals simp [dropped]

@[simp] theorem afterTiming_storeView (b s : State) : (State.afterTiming b s).storeView = s.storeView := by
  refine foldl_keeps State.storeView _ (fun u z => ?_) _ _
  unfold State.followTiming
  dsimp only
  split <;> simp

@[simp] theorem startIn_storeView (s : State) (z : Fin 8) (c : Fin 32) (l : List StackEntry) :
    (s.startIn z c l).storeView = s.storeView := by
  unfold State.startIn
  dsimp only
  split <;> simp

theorem advance_storeView (s : State) (z : Fin 8) (f : Nat) : (s.advance z f).storeView = s.storeView := by
  have progress : (s.progress z).storeView = s.storeView := by
    unfold State.progress
    dsimp only
    repeat' split
    all_goals simp
  have select (u : State) : (u.select z).storeView = u.storeView := by
    unfold State.select
    dsimp only
    repeat' split
    all_goals simp
  have ramp (u : State) : (u.ramp z).storeView = u.storeView := rfl
  have record (u : State) : (u.formRecord z f).storeView = u.storeView := by
    unfold State.formRecord
    dsimp only
    split <;> rfl
  unfold State.advance
  rw [record, ramp, select, progress]

theorem advanceBy_storeView (z : Fin 8) (f : Nat) : ∀ (d : Nat) (s : State),
    (State.advanceBy z f d s).storeView = s.storeView
  | 0, _ => rfl
  | d + 1, s => (advanceBy_storeView z f d _).trans (advance_storeView s z f)

theorem judgeProgram_storeView (s : State) (g : Fin 12) (h : WinHit) : (s.judgeProgram g h).2.storeView = s.storeView := by
  have lag : (s.countLag g).storeView = s.storeView := by simp [State.countLag]
  unfold State.judgeProgram State.judgeTiming
  dsimp only
  repeat' split
  all_goals simp [advanceBy_storeView, lag]

theorem treatProgramRead_storeView (s : State) (m : Fin 16) (a : Access) (h : WinHit) :
    (s.treatProgramRead m a h).storeView = s.storeView := by
  unfold State.treatProgramRead
  split <;> simp [judgeProgram_storeView]

/-! ## Incident Control -/

theorem rederive_storeView (b s : State) (c : Cause) : (State.rederive b s c).storeView = s.storeView := by
  have starts (u : State) (d : Fin 32) : (u.autoStart d).storeView = u.storeView := by
    unfold State.autoStart
    split <;> simp
  have exits (u : State) (d : Fin 32) : (u.exitCue d).storeView = u.storeView := by
    unfold State.exitCue
    split <;> simp
  have entered : (s.enterIncident c).storeView = s.storeView :=
    (foldl_keeps State.storeView _ starts _ _).trans (raiseEvent_storeView s _ _ _ _)
  have cleared (u : State) : ({ u with barred := 0, refusals := Vector.replicate 16 0 } : State).storeView = u.storeView := rfl
  have left : (s.exitIncident c).storeView = s.storeView :=
    (cleared _).trans ((foldl_keeps State.storeView _ exits _ _).trans (raiseEvent_storeView s _ _ _ _))
  unfold State.rederive
  rw [list_storeView]
  repeat' split
  · exact entered
  · exact left
  · rfl

theorem takeRequest_storeView (s : State) (bs : List WByte) (m : Fin 16) : (s.takeRequest bs m).storeView = s.storeView := by
  have consumer (u : State) : (u.takeConsumer bs).storeView = u.storeView := by
    unfold State.takeConsumer State.setConsumer
    split
    · rfl
    · exact listIf_storeView _ _ _
  have set (u : State) : (u.setLatch m).storeView = u.storeView := by
    unfold State.setLatch
    split
    · rfl
    · exact rederive_storeView _ _ _
  have clear (u : State) : (u.clearLatch m).storeView = u.storeView := by
    unfold State.clearLatch
    split
    · exact rederive_storeView _ _ _
    · rfl
  have latch (u : State) : (u.takeLatch bs m).storeView = u.storeView := by
    unfold State.takeLatch
    repeat' split
    · rfl
    · exact clear u
    · exact set u
  have fault (u : State) (o : Nat) (c : Bool) : (u.takeClear bs o c).storeView = u.storeView := by
    unfold State.takeClear
    split <;> simp
  unfold State.takeRequest
  rw [fault, fault, latch, consumer]
  rfl

theorem changeLine_storeView (s : State) (b : Bool) : (s.changeLine b).storeView = s.storeView := by
  unfold State.changeLine
  split <;> rfl

theorem qualify_storeView (s : State) : s.qualify.storeView = s.storeView := rederive_storeView _ _ _

theorem chargeProtected_storeView (s : State) (m : Fin 16) (a : Access) : (s.chargeProtected m a).storeView = s.storeView := by
  have refuse (u : State) : (u.refuse m).storeView = u.storeView := by
    unfold State.refuse
    dsimp only
    split
    · exact raiseEvent_storeView _ _ _ _ _
    · rfl
  have counted (x : Addr) : (s.countProtected m x).storeView = s.storeView :=
    (refuse _).trans ((listIf_storeView _ _ _).trans (raiseFault_storeView s _ _ _ _))
  unfold State.chargeProtected
  split
  · rfl
  · exact counted _

/-! ## Write-backs, the write-out and event writes -/

theorem startWriteBack_storeView (s : State) : s.startWriteBack.storeView = s.storeView := by
  unfold State.startWriteBack
  repeat' split
  all_goals rfl

theorem answerWriteBack_storeView (s : State) (b : WriteBack) (k : Nat) (ok : Bool) :
    (s.answerWriteBack b k ok).storeView = s.storeView := by
  have record (id : RecordId) (u : State) (m : Fin 16) : (State.releaseRecord id u m).storeView = u.storeView := by
    unfold State.releaseRecord
    repeat' split
    all_goals simp
  have write (u : State) (m : Fin 16) : (u.releaseWrite m).storeView = u.storeView := by
    unfold State.releaseWrite
    split <;> rfl
  have ended (u : State) (b : WriteBack) : (u.endWriteBack b).storeView = u.storeView :=
    (foldl_keeps State.storeView _ write _ _).trans (foldl_keeps State.storeView _ (record b.id) _ _)
  have placed (u : State) (b : WriteBack) : ({ u with writeBack := some b } : State).storeView = u.storeView := rfl
  have raised : (if !ok && !b.failed && !b.dropped then
      s.raiseFault .writebackError Config.ownNumber (b.burstAddr k) none else s).storeView = s.storeView := by
    split <;> simp
  unfold State.answerWriteBack
  dsimp only
  split
  · exact (ended _ _).trans raised
  · exact (placed _ _).trans raised

theorem answerWriteOut_storeView (s : State) (o : WriteOut) (k : Nat) (ok : Bool) :
    (s.answerWriteOut o k ok).storeView = s.storeView := by
  have release (u : State) (m : Fin 16) : (u.releaseWriteOut m).storeView = u.storeView := by
    unfold State.releaseWriteOut
    split <;> rfl
  have ended (u : State) (b : Bool) : (u.endWriteOut b).storeView = u.storeView :=
    (foldl_keeps State.storeView _ release _ _).trans (raiseEvent_storeView _ _ _ _ _)
  have placed (u : State) (o : WriteOut) : ({ u with writeOut := some o } : State).storeView = u.storeView := rfl
  have raised : (if !ok && !o.failed then
      s.raiseFault .writebackError Config.ownNumber (s.imageAddr k) none else s).storeView = s.storeView := by
    split <;> simp
  unfold State.answerWriteOut
  dsimp only
  split
  · exact (ended _ _).trans raised
  · exact (placed _ _).trans raised

theorem issueEvent_storeView (s : State) : s.issueEvent.storeView = s.storeView := by
  unfold State.issueEvent
  split <;> rfl

theorem answerEvent_storeView (s : State) (ok : Bool) : (s.answerEvent ok).storeView = s.storeView := by
  unfold State.answerEvent State.loseEvent
  repeat' split
  · rfl
  · exact listIf_storeView _ _ _
  · rfl

theorem release_storeView (s : State) (b : BitVec 8) (m : BitVec 4) (d : BitVec 6) :
    (s.release b m d).storeView = s.storeView := by
  unfold State.release
  split <;> rfl

/-! ## Control-region accesses -/

theorem treatControlRead_storeView (s : State) (m : Fin 16) (a : Access) : (s.treatControlRead m a).storeView = s.storeView := by
  unfold State.treatControlRead
  split <;> rfl

theorem takeZone_storeView (s : State) (bs : List WByte) (z : Fin 8) : (s.takeZone bs z).storeView = s.storeView := by
  simp [State.takeZone]

theorem takeCue_storeView (s : State) (bs : List WByte) (c : Fin 32) : (s.takeCue bs c).storeView = s.storeView := by
  have request (u : State) (b : Byte) : (u.actRequest b c).storeView = u.storeView := by
    unfold State.actRequest
    repeat' split
    all_goals simp
  unfold State.takeCue
  dsimp only
  split <;> simp [request]

theorem enableWindow_storeView (s : State) (w : Fin 16) : (s.enableWindow w).storeView = s.storeView := by
  unfold State.enableWindow State.refuseWindow State.acceptWindow
  repeat' split
  all_goals simp

theorem enableService_storeView (s : State) (v : Fin 8) : (s.enableService v).storeView = s.storeView := by
  unfold State.enableService
  split <;> simp

theorem reclassify_storeView (s : State) (m : Fin 16) : (s.reclassify m).storeView = s.storeView := by
  unfold State.reclassify
  repeat' split
  all_goals simp

/-! ## Taking an access -/

theorem check_storeView (s : State) (m : Fin 16) (a : Access) : (s.check m a).storeView = s.storeView := by
  have handed (u : State) (c : Cls) : (u.handOn m c).storeView = u.storeView := rfl
  unfold State.check State.dropOffline State.checkPartial
  dsimp only
  repeat' split
  all_goals simp [handed]

end Sys2Proof.Machine
end

section
/-! The promises about the combine store kept by every operation of the part (R49, R64). -/

namespace Sys2Proof.Machine

/-- Both promises about the combine store that held before hold after. -/
structure KeepsStore (s t : State) : Prop where
  frames : s.FrameSound → t.FrameSound
  expects : s.ExpectSound → t.ExpectSound

theorem KeepsStore.refl (s : State) : KeepsStore s s := ⟨id, id⟩

theorem KeepsStore.trans {s t u : State} (h : KeepsStore s t) (k : KeepsStore t u) : KeepsStore s u :=
  ⟨k.frames ∘ h.frames, k.expects ∘ h.expects⟩

theorem KeepsStore.ite {s t u : State} {p : Prop} [Decidable p] (h : KeepsStore s t) (k : KeepsStore s u) :
    KeepsStore s (if p then t else u) := by
  split
  · exact h
  · exact k

theorem KeepsStore.foldl {α : Type} {f : State → α → State} (h : ∀ s x, KeepsStore s (f s x)) (l : List α) :
    ∀ s, KeepsStore s (l.foldl f s) := by
  induction l with
  | nil => exact KeepsStore.refl
  | cons x xs ih => exact fun s => (h s x).trans (ih (f s x))

/-! ## Changes of the segments, the slots and the pending allocations -/

/-- With the slots and the pending allocations as they were, it is enough that each segment that was ACTIVE, or about to leave
the expected sets, still is. -/
theorem keepsStore_of_segments {s t : State} (slots : t.slots = s.slots) (allocs : t.allocs = s.allocs)
    (stays : ∀ g, (s.segments.get g).state = .active ∨ g ∈ s.departures →
      (t.segments.get g).state = .active ∨ g ∈ t.departures) : KeepsStore s t where
  frames := by
    unfold State.FrameSound
    rw [slots, allocs]
    exact id
  expects sound n := by
    rw [slots]
    refine ⟨(sound n).1, fun busy g expected => ?_⟩
    rcases (sound n).2 busy g expected with active | done | leaving
    · exact (stays g (.inl active)).imp_right .inr
    · exact .inr (.inl done)
    · exact (stays g (.inr leaving)).imp_right .inr

theorem storeView_slots {s t : State} (h : t.storeView = s.storeView) : t.slots = s.slots := congrArg (·.1) h

theorem storeView_allocs {s t : State} (h : t.storeView = s.storeView) : t.allocs = s.allocs := congrArg (·.2.1) h

theorem storeView_departures {s t : State} (h : t.storeView = s.storeView) : t.departures = s.departures :=
  congrArg (·.2.2.1) h

theorem storeView_state {s t : State} (h : t.storeView = s.storeView) (g : Fin 12) :
    (t.segments.get g).state = (s.segments.get g).state := congrFun (congrArg (·.2.2.2) h) g

theorem keepsStore_of_view {s t : State} (h : t.storeView = s.storeView) : KeepsStore s t :=
  keepsStore_of_segments (storeView_slots h) (storeView_allocs h) fun g stays => by
    rw [storeView_state h, storeView_departures h]
    exact stays

/-- The slot holds no other frame than before, expects no segment that it did not, and no contribution that counts ceases to
be DONE. -/
structure Slot.NarrowsTo (t t' : Slot) : Prop where
  frame : t'.state ≠ .free → t.state ≠ .free ∧ t'.window = t.window ∧ t'.frame = t.frame
  expected : t'.expected.Sublist t.expected
  done : ∀ g ∈ t'.expected, (t.contribs.get g).state = .done → (t'.contribs.get g).state = .done

/-- A change of a slot that keeps what `NarrowsTo` speaks of. -/
theorem Slot.NarrowsTo.of_same {t t' : Slot} (state : t'.state = t.state) (window : t'.window = t.window)
    (frame : t'.frame = t.frame) (expected : t'.expected = t.expected) (contribs : t'.contribs = t.contribs) :
    t.NarrowsTo t' :=
  ⟨fun busy => ⟨state ▸ busy, window, frame⟩, expected ▸ .refl _, fun _ _ done => contribs ▸ done⟩

theorem Slot.NarrowsTo.refl (t : Slot) : t.NarrowsTo t := .of_same rfl rfl rfl rfl rfl

theorem narrowing_keepsStore {s t : State} (allocs : t.allocs = s.allocs) (departures : t.departures = s.departures)
    (segments : t.segments = s.segments) (narrows : ∀ n, (s.slots.get n).NarrowsTo (t.slots.get n)) : KeepsStore s t where
  frames sound := by
    obtain ⟨slots, apart, pending⟩ := sound
    refine ⟨fun n k busyN busyK window frame => ?_, fun n p held busy => ?_, allocs ▸ pending⟩
    · obtain ⟨busyN, windowN, frameN⟩ := (narrows n).frame busyN
      obtain ⟨busyK, windowK, frameK⟩ := (narrows k).frame busyK
      exact slots n k busyN busyK (windowN ▸ windowK ▸ window) (frameN ▸ frameK ▸ frame)
    · obtain ⟨busy, window, frame⟩ := (narrows n).frame busy
      rw [window, frame]
      exact apart n p (allocs ▸ held) busy
  expects sound n := by
    obtain ⟨nodup, stays⟩ := sound n
    refine ⟨nodup.sublist (narrows n).expected, fun busy g expected => ?_⟩
    rw [segments, departures]
    have before := stays ((narrows n).frame busy).1 g ((narrows n).expected.subset expected)
    exact before.imp_right (Or.imp_left ((narrows n).done g expected))

theorem setSlot_keepsStore {s : State} {n : Fin 16} {t : Slot} (narrows : (s.slots.get n).NarrowsTo t) :
    KeepsStore s (s.setSlot n t) := by
  refine narrowing_keepsStore rfl rfl rfl fun k => ?_
  rw [State.setSlot_slots, setAt_get]
  split
  · next here => exact here ▸ narrows
  · exact .refl _

/-- The expected set of a newly allocated slot is of ACTIVE segments, each once (R53). -/
theorem allocate_expectSound {s : State} (n w : Fin 16) (f : Nat) (sound : s.ExpectSound) :
    (s.allocate n w f).ExpectSound := by
  intro k
  have get : (s.allocate n w f).slots.get k = if n = k then s.freshSlot w f else s.slots.get k := setAt_get _ _ _ _
  rw [get]
  split
  · have expected : (s.freshSlot w f).expected = s.expectedSet (s.windows.get w).service := rfl
    rw [expected]
    refine ⟨(List.nodup_finRange 12).filter _, fun _ g member => .inl ?_⟩
    exact beq_iff_eq.mp (Bool.and_eq_true_iff.mp (List.mem_filter.mp member).2).1
  · exact sound k

/-- A slot is allocated for a frame that no other slot and no pending allocation holds (R52). -/
theorem allocate_frameSound {s : State} {n w : Fin 16} {f : Nat} (sound : s.FrameSound)
    (slots : ∀ k, k ≠ n → (s.slots.get k).state ≠ .free → ¬((s.slots.get k).window = w ∧ (s.slots.get k).frame = f))
    (allocs : ∀ p ∈ s.allocs, ¬(p.window = w ∧ p.frame = f)) : (s.allocate n w f).FrameSound := by
  obtain ⟨once, apart, pending⟩ := sound
  have get (k : Fin 16) : (s.allocate n w f).slots.get k = if n = k then s.freshSlot w f else s.slots.get k :=
    setAt_get _ _ _ _
  refine ⟨fun i k busyI busyK window frame => ?_, fun k p held busy => ?_, pending⟩
  · rw [get] at busyI busyK window frame
    rw [get] at window frame
    by_cases hi : n = i <;> by_cases hk : n = k
    · exact hi.symm.trans hk
    · rw [if_pos hi] at window frame
      rw [if_neg hk] at busyK window frame
      exact absurd ⟨window.symm, frame.symm⟩ (slots k (Ne.symm hk) busyK)
    · rw [if_pos hk] at window frame
      rw [if_neg hi] at busyI window frame
      exact absurd ⟨window, frame⟩ (slots i (Ne.symm hi) busyI)
    · rw [if_neg hi] at busyI window frame
      rw [if_neg hk] at busyK window frame
      exact once i k busyI busyK window frame
  · rw [get] at busy ⊢
    split
    · exact fun same => allocs p held ⟨same.1.symm, same.2.symm⟩
    · next other =>
      rw [if_neg other] at busy
      exact apart k p held busy

theorem endAlloc_keepsStore (s : State) (p : PendingAlloc) : KeepsStore s (s.endAlloc p) where
  frames sound := ⟨sound.1, fun n q held => sound.2.1 n q (List.mem_of_mem_filter held), sound.2.2.filter _⟩
  expects := id

/-- Two pending allocations for the same frame are one (R49). -/
theorem alloc_eq_of_frame {s : State} (sound : s.FrameSound) {p q : PendingAlloc} (hp : p ∈ s.allocs) (hq : q ∈ s.allocs)
    (window : p.window = q.window) (frame : p.frame = q.frame) : p = q := by
  by_contra other
  have symm : Std.Symm fun p q : PendingAlloc => ¬(p.window = q.window ∧ p.frame = q.frame) :=
    ⟨fun _ _ apart same => apart ⟨same.1.symm, same.2.symm⟩⟩
  exact sound.2.2.forall hp hq other ⟨window, frame⟩

/-- The frame of a pending allocation passes from it to its slot (R55). -/
theorem serve_keepsStore {s : State} {p : PendingAlloc} (held : p ∈ s.allocs) :
    KeepsStore s ((s.endAlloc p).allocate p.slot p.window p.frame) where
  frames sound := by
    refine allocate_frameSound ((endAlloc_keepsStore s p).frames sound)
      (fun k _ busy => sound.2.1 k p held busy) fun q hq same => ?_
    obtain ⟨hq, other⟩ := List.mem_filter.mp hq
    exact bne_iff_ne.mp other (alloc_eq_of_frame sound hq held same.1 same.2)
  expects := allocate_expectSound p.slot p.window p.frame

/-- A pending allocation is made for a frame that no slot and no pending allocation holds (R54). -/
theorem addAlloc_keepsStore {s : State} {p : PendingAlloc}
    (slots : ∀ k, (s.slots.get k).state ≠ .free → ¬((s.slots.get k).window = p.window ∧ (s.slots.get k).frame = p.frame))
    (allocs : ∀ q ∈ s.allocs, ¬(q.window = p.window ∧ q.frame = p.frame)) :
    KeepsStore s { s with allocs := s.allocs ++ [p] } where
  frames sound := by
    refine ⟨sound.1, fun n q held busy => ?_, List.pairwise_append.mpr ⟨sound.2.2, List.pairwise_singleton _ _, ?_⟩⟩
    · rcases List.mem_append.mp held with held | new
      · exact sound.2.1 n q held busy
      · rw [List.mem_singleton.mp new]
        exact slots n busy
    · intro q held r new
      rw [List.mem_singleton.mp new]
      exact allocs q held
  expects := id

/-- The frames held by no slot and by no pending allocation. -/
theorem unheld_of_slotOf {s : State} {w : Fin 16} {f : Nat} (h : s.slotOf w f = none) (k : Fin 16)
    (busy : (s.slots.get k).state ≠ .free) : ¬((s.slots.get k).window = w ∧ (s.slots.get k).frame = f) :=
  fun same => (s.slotOf_eq_none_iff w f).mp h ⟨k, busy, same⟩

theorem unheld_of_allocOf {s : State} {w : Fin 16} {f : Nat} (h : s.allocOf w f = none) (p : PendingAlloc)
    (held : p ∈ s.allocs) : ¬(p.window = w ∧ p.frame = f) := by
  have other := List.find?_eq_none.mp h p held
  simpa using other

/-! ## Contributions and the start of a flush -/

theorem breakContrib_narrows (t : Slot) (g : Fin 12) : t.NarrowsTo (t.breakContrib g) where
  frame h := ⟨h, rfl, rfl⟩
  expected := List.filter_sublist
  done x expected done := by
    have other : x ≠ g := bne_iff_ne.mp (List.mem_filter.mp expected).2
    show ((setAt t.contribs g _).get x).state = .done
    rw [setAt_get, if_neg other.symm]
    exact done

theorem leave_narrows (t : Slot) (g : Fin 12) : t.NarrowsTo (t.leave g) :=
  ⟨fun h => ⟨h, rfl, rfl⟩, List.filter_sublist, fun _ _ h => h⟩

theorem accept_narrows (t : Slot) (g : Fin 12) (gain : Nat) (gate : Gate) (o : Nat) (xs : List Lanes)
    (undone : (t.contribs.get g).state ≠ .done) : t.NarrowsTo (t.accept g gain gate o xs) where
  frame h := ⟨h, rfl, rfl⟩
  expected := .refl _
  done x _ done := by
    have other : g ≠ x := fun same => undone (same ▸ done)
    show ((setAt t.contribs g _).get x).state = .done
    rw [setAt_get, if_neg other]
    exact done

@[simp] theorem countLate_storeView (s : State) (g : Fin 12) : (s.countLate g).storeView = s.storeView := by
  simp [State.countLate]

@[simp] theorem countSequence_storeView (s : State) (g : Fin 12) : (s.countSequence g).storeView = s.storeView := by
  simp [State.countSequence]

@[simp] theorem countFlushError_storeView (s : State) (v : Fin 8) : (s.countFlushError v).storeView = s.storeView := by
  simp [State.countFlushError]

@[simp] theorem countEviction_storeView (s : State) (v : Fin 8) : (s.countEviction v).storeView = s.storeView := by
  simp [State.countEviction]

@[simp] theorem countFrame_storeView (s : State) (v : Fin 8) (o : SlotOutcome) :
    (s.countFrame v o).storeView = s.storeView := by
  simp [State.countFrame]

@[simp] theorem updateGate_storeView (s : State) (n : Fin 16) (g : Fin 12) : (s.updateGate n g).storeView = s.storeView := by
  simp [State.updateGate]

@[simp] theorem moveHorizon_storeView (s : State) (w : Fin 16) (f : Nat) : (s.moveHorizon w f).storeView = s.storeView := by
  simp [State.moveHorizon]

theorem contribute_keepsStore (s : State) (n : Fin 16) (g : Fin 12) (a : Access) (o : Nat) :
    KeepsStore s (s.contribute n g a o).2 := by
  have listed (t : Slot) : KeepsStore (s.setSlot n t) ((s.setSlot n t).list (.slot n)) := keepsStore_of_view rfl
  rw [contribute_eq]
  dsimp only
  split
  · exact keepsStore_of_view (by simp)
  next live =>
  have taken := (setSlot_keepsStore (s := s) (accept_narrows (s.slots.get n) g (s.segments.get g).uplinkGain
    ((s.segments.get g).gates.get (s.slots.get n).service) o (Access.lanes a) fun done => live (.inl done))).trans (listed _)
  repeat' split
  · exact keepsStore_of_view (by simp)
  · exact ((setSlot_keepsStore (breakContrib_narrows _ g)).trans (listed _)).trans (keepsStore_of_view (by simp))
  · exact taken
  · exact taken.trans (keepsStore_of_view (by simp))

theorem contributeWaiting_keepsStore (n : Fin 16) (s : State) (m : Fin 16) :
    KeepsStore s (State.contributeWaiting n s m) := by
  unfold State.contributeWaiting
  split
  · exact (contribute_keepsStore _ _ _ _ _).trans (keepsStore_of_view (respond_storeView _ _ _ _))
  · exact .refl s

@[simp] theorem dropWaiting_storeView (s : State) (m : Fin 16) : (s.dropWaiting m).storeView = s.storeView := by
  unfold State.dropWaiting
  split <;> simp

@[simp] theorem accountMisses_storeView (s : State) (t : Slot) (o : SlotOutcome) :
    (s.accountMisses t o).storeView = s.storeView := by
  unfold State.accountMisses
  split
  · rfl
  · refine foldl_keeps State.storeView _ (fun u g => ?_) _ _
    unfold State.accountSegment
    dsimp only
    repeat' split
    · simp
    · rw [handovers_storeView]
      simp
    · simp

/-- A slot that is not FREE may become FLUSHING (R69). -/
theorem enterFlushing_keepsStore {s : State} {n : Fin 16} (o : SlotOutcome) (busy : (s.slots.get n).state ≠ .free) :
    KeepsStore s (s.enterFlushing n o) := by
  have entered : (s.slots.get n).NarrowsTo { s.slots.get n with
      state := .flushing, outcome := o, satCount := saturationCount (s.slots.get n).acc, timer := none } :=
    ⟨fun _ => ⟨busy, rfl, rfl⟩, .refl _, fun _ _ h => h⟩
  refine (setSlot_keepsStore entered).trans (keepsStore_of_view ?_)
  unfold State.enterFlushing
  dsimp only
  split <;> simp

theorem beginFlush_keepsStore {s : State} {n : Fin 16} (o : SlotOutcome) (busy : (s.slots.get n).state ≠ .free) :
    KeepsStore s (s.beginFlush n o).2 :=
  (enterFlushing_keepsStore o busy).trans (keepsStore_of_view (translate_storeView _ _ _ _ _ _))

theorem issueBursts_keepsStore (s : State) (n : Fin 16) (p : Addr) : KeepsStore s (s.issueBursts n p) := by
  have issued (f : Option Flush) : (s.slots.get n).NarrowsTo { s.slots.get n with flush := f } :=
    .of_same rfl rfl rfl rfl rfl
  exact (setSlot_keepsStore (issued _)).trans
    (keepsStore_of_view (foldl_keeps State.storeView _ (fun u k => snoop_storeView u _ _ _) _ _))

/-! ## The end of a flush -/

theorem freeAfterFlush_keepsStore (s : State) (n : Fin 16) : KeepsStore s (s.freeAfterFlush n) := by
  have freed : (s.slots.get n).NarrowsTo
      { s.slots.get n with state := .free, claimed := false, held := [], flush := none } :=
    ⟨fun h => absurd rfl h, .refl _, fun _ _ h => h⟩
  have released (u : State) (m : Fin 16) : (State.releaseRead n u m).storeView = u.storeView := by
    unfold State.releaseRead
    repeat' split
    all_goals simp
  rw [freeAfterFlush_eq]
  exact (setSlot_keepsStore freed).trans (keepsStore_of_view (foldl_keeps State.storeView _ released _ _))

theorem serveAlloc_keepsStore {s : State} {p : PendingAlloc} (held : p ∈ s.allocs) : KeepsStore s (s.serveAlloc p) := by
  unfold State.serveAlloc
  split
  · exact (serve_keepsStore held).trans (KeepsStore.foldl (contributeWaiting_keepsStore _) _ _)
  · exact (endAlloc_keepsStore s p).trans
      (keepsStore_of_view (foldl_keeps State.storeView _ dropWaiting_storeView _ _))

/-- A complete slot is FILLING, so it is not FREE (R66). -/
theorem busy_of_complete {t : Slot} (complete : t.isComplete = true) : t.state ≠ .free := by
  rw [(Slot.isComplete_iff t).mp complete |>.1]
  exact nofun

theorem endFlush_keepsStore (n : Fin 16) : ∀ (fuel : Nat) (s : State), KeepsStore s (State.endFlush fuel n s)
  | 0, s => .refl s
  | fuel + 1, s => by
    unfold State.endFlush
    dsimp only
    split
    · exact freeAfterFlush_keepsStore s n
    · next p claim =>
      have served := (freeAfterFlush_keepsStore s n).trans (serveAlloc_keepsStore (List.mem_of_find?_eq_some claim))
      split
      · next complete =>
        have begun := served.trans (beginFlush_keepsStore .complete (busy_of_complete complete))
        split
        · exact begun.trans (issueBursts_keepsStore _ _ _)
        · exact (begun.trans (keepsStore_of_view (countFlushError_storeView _ _))).trans (endFlush_keepsStore n fuel _)
        · exact begun
      · exact served

theorem flushRefused_keepsStore (s : State) (n : Fin 16) : KeepsStore s (s.flushRefused n) :=
  (keepsStore_of_view (countFlushError_storeView s _)).trans (endFlush_keepsStore n _ _)

theorem startFlush_keepsStore {s : State} {n : Fin 16} (o : SlotOutcome) (busy : (s.slots.get n).state ≠ .free) :
    KeepsStore s (s.startFlush n o) := by
  have begun := beginFlush_keepsStore o busy
  unfold State.startFlush
  dsimp only
  split
  · exact begun.trans (issueBursts_keepsStore _ _ _)
  · exact begun.trans (flushRefused_keepsStore _ _)
  · exact begun

theorem startFlush_filling_keepsStore {s : State} {n : Fin 16} (o : SlotOutcome) (filling : (s.slots.get n).state = .filling) :
    KeepsStore s (s.startFlush n o) := startFlush_keepsStore o (by rw [filling]; exact nofun)

theorem checkComplete_keepsStore (s : State) (n : Fin 16) : KeepsStore s (s.checkComplete n) := by
  unfold State.checkComplete
  split
  · next complete => exact startFlush_keepsStore _ (busy_of_complete complete)
  · exact .refl s

theorem answerFlush_keepsStore (s : State) (n k : Fin 16) (f : Flush) (ok : Bool) :
    KeepsStore s (s.answerFlush n k f ok) := by
  have noted : (s.burstNoted n k f ok).storeView = s.storeView := by
    unfold State.burstNoted
    split
    · rw [countFlushError_storeView, raiseFault_storeView]
      rfl
    · rfl
  have left (b : Option Flush) : KeepsStore s ((s.burstNoted n k f ok).setSlot n { s.slots.get n with flush := b }) := by
    refine (keepsStore_of_view noted).trans (setSlot_keepsStore ?_)
    rw [storeView_slots noted]
    exact .of_same rfl rfl rfl rfl rfl
  rw [answerFlush_eq]
  exact KeepsStore.ite ((left _).trans (endFlush_keepsStore n _ _)) (left _)

/-! ## Writes and reads of uplink frames -/

theorem dropLate_storeView (s : State) (m : Fin 16) (g : Fin 12) : (s.dropLate m g).storeView = s.storeView := by
  simp [State.dropLate]

theorem joinSlot_keepsStore (s : State) (n m : Fin 16) (g : Fin 12) (a : Access) (o : Nat) (fresh : Bool) :
    KeepsStore s (s.joinSlot n m g a o fresh) := by
  have answered : KeepsStore s ((s.contribute n g a o).2.respond m true []) :=
    (contribute_keepsStore s n g a o).trans (keepsStore_of_view (respond_storeView _ _ _ _))
  exact KeepsStore.ite (answered.trans (checkComplete_keepsStore _ _)) answered

/-- A write that joins a pending allocation leaves its frame (R55). -/
theorem waitOnAlloc_keepsStore (s : State) (m : Fin 16) (p : PendingAlloc) (h : WinHit) :
    KeepsStore s (s.waitOnAlloc m p h) where
  frames sound := by
    have same (q : PendingAlloc) : (if q = p then { q with writers := q.writers ++ [m] } else q).window = q.window ∧
        (if q = p then { q with writers := q.writers ++ [m] } else q).frame = q.frame := by
      split <;> exact ⟨rfl, rfl⟩
    refine ⟨sound.1, fun n q waits busy => ?_, sound.2.2.map _ fun q r apart => ?_⟩
    · obtain ⟨r, held, rfl⟩ := List.mem_map.mp waits
      rw [(same r).1, (same r).2]
      exact sound.2.1 n r held busy
    · rw [(same q).1, (same q).2, (same r).1, (same r).2]
      exact apart
  expects := id

section
variable {s : State} {h : WinHit} (unheld : s.slotOf h.window h.frame = none) (unclaimed : s.allocOf h.window h.frame = none)
include unheld unclaimed

theorem createAlloc_keepsStore (n m : Fin 16) : KeepsStore s (s.createAlloc n m h) := by
  have claimed : (s.slots.get n).NarrowsTo { s.slots.get n with claimed := true } :=
    .of_same rfl rfl rfl rfl rfl
  have pending := addAlloc_keepsStore (s := s) (p := { window := h.window, frame := h.frame, slot := n, writers := [m] })
    (unheld_of_slotOf unheld) (unheld_of_allocOf unclaimed)
  have waiting := (pending.trans (keepsStore_of_view (setStage_storeView _ m (.heldPending h)))).trans
    (setSlot_keepsStore claimed)
  unfold State.createAlloc
  dsimp only
  split
  · next filling =>
    refine (waiting.trans (keepsStore_of_view ?_)).trans (startFlush_filling_keepsStore .evicted ?_)
    · simp
    · simpa [State.countEviction] using filling
  · exact waiting

theorem judgeHorizon_keepsStore (m : Fin 16) (g : Fin 12) (a : Access) : KeepsStore s (s.judgeHorizon m g a h) := by
  have view := moveHorizon_storeView s h.window h.frame
  have moved := keepsStore_of_view view
  have unheld' : (s.moveHorizon h.window h.frame).slotOf h.window h.frame = none :=
    (slotOf_congr (storeView_slots view) _ _).trans unheld
  have unclaimed' : (s.moveHorizon h.window h.frame).allocOf h.window h.frame = none := by
    unfold State.allocOf
    rw [storeView_allocs view]
    exact unclaimed
  unfold State.judgeHorizon
  dsimp only
  repeat' split
  · next n _ =>
    have allocated : KeepsStore (s.moveHorizon h.window h.frame)
        ((s.moveHorizon h.window h.frame).allocate n h.window h.frame) :=
      ⟨fun sound => allocate_frameSound sound (fun k _ => unheld_of_slotOf unheld' k) (unheld_of_allocOf unclaimed'),
        allocate_expectSound n _ _⟩
    exact (moved.trans allocated).trans (joinSlot_keepsStore _ _ _ _ _ _ _)
  · exact moved.trans (createAlloc_keepsStore unheld' unclaimed' _ _)
  · exact .refl s
  · exact keepsStore_of_view (dropLate_storeView _ _ _)

end

theorem judgeUplink_keepsStore (s : State) (m : Fin 16) (g : Fin 12) (a : Access) (h : WinHit) :
    KeepsStore s (s.judgeUplink m g a h) := by
  have late : KeepsStore s (s.dropLate m g) := keepsStore_of_view (dropLate_storeView _ _ _)
  unfold State.judgeUplink
  split
  · exact late
  · split
    · exact KeepsStore.ite (joinSlot_keepsStore _ _ _ _ _ _ _) late
    · next unheld =>
      split
      · exact waitOnAlloc_keepsStore _ _ _ _
      · next unclaimed => exact judgeHorizon_keepsStore unheld unclaimed m g a

theorem tellPartial_keepsStore (s : State) (g : Fin 12) (h : WinHit) : KeepsStore s (s.tellPartial g h) := by
  unfold State.tellPartial
  split
  · exact .refl s
  · exact KeepsStore.ite (((setSlot_keepsStore (breakContrib_narrows _ g)).trans
      (keepsStore_of_view (list_storeView _ _))).trans (checkComplete_keepsStore _ _)) (.refl s)

theorem treatUplinkWrite_keepsStore (s : State) (m : Fin 16) (a : Access) (h : WinHit) :
    KeepsStore s (s.treatUplinkWrite m a h) := by
  have fault (k : FaultKind) : KeepsStore s ((s.raiseFault k m.val a.addr (some h.window)).respondDropped m a) :=
    keepsStore_of_view (by simp)
  unfold State.treatUplinkWrite
  repeat' split
  · exact fault .role
  · exact fault .role
  · exact (fault .partialWord).trans (tellPartial_keepsStore _ _ _)
  · exact judgeUplink_keepsStore _ _ _ _ _

theorem treatUplinkRead_keepsStore (s : State) (m : Fin 16) (a : Access) (h : WinHit) :
    KeepsStore s (s.treatUplinkRead m a h) := by
  have held (n : Fin 16) (l : List (Fin 16)) : (s.slots.get n).NarrowsTo { s.slots.get n with held := l } :=
    .of_same rfl rfl rfl rfl rfl
  unfold State.treatUplinkRead
  split
  · exact keepsStore_of_view (sendThrough_storeView _ _ _ _ _ _)
  · exact KeepsStore.ite (keepsStore_of_view rfl) ((setSlot_keepsStore (held _ _)).trans (keepsStore_of_view rfl))

/-! ## Segments that leave ACTIVE (R98, R100, R102, R104) -/

/-- A segment that leaves ACTIVE gives its departure notice, so it may stand in the expected sets until the notice is taken. -/
theorem noticeDeparture_keepsStore {s u : State} {g : Fin 12} {e : SegmentEntry}
    (h : u.storeView = (s.setSegment g e).storeView) :
    KeepsStore s (u.noticeDeparture g (s.segments.get g).state) := by
  have slots : u.slots = s.slots := (storeView_slots h).trans rfl
  have allocs : u.allocs = s.allocs := (storeView_allocs h).trans rfl
  have departures : u.departures = s.departures := (storeView_departures h).trans rfl
  have other {x : Fin 12} (hx : g ≠ x) : (u.segments.get x).state = (s.segments.get x).state := by
    rw [storeView_state h, State.setSegment_segments, setAt_get, if_neg hx]
  unfold State.noticeDeparture
  split
  · refine keepsStore_of_segments slots allocs fun x stays => ?_
    show (u.segments.get x).state = .active ∨ x ∈ u.departures ++ [g]
    rw [departures]
    by_cases hx : g = x
    · exact .inr (by simp [hx])
    · rw [other hx]
      exact stays.imp_right (List.mem_append_left _)
  · next inactive =>
    refine keepsStore_of_segments slots allocs fun x stays => ?_
    rw [departures]
    by_cases hx : g = x
    · exact stays.imp_left fun active => absurd (hx ▸ active) inactive
    · rw [other hx]
      exact stays

theorem activate_keepsStore {s u : State} {g : Fin 12} {e : SegmentEntry} (active : e.state = .active)
    (h : u.storeView = (s.setSegment g e).storeView) : KeepsStore s u := by
  refine keepsStore_of_segments ((storeView_slots h).trans rfl) ((storeView_allocs h).trans rfl) fun x stays => ?_
  rw [storeView_departures h, storeView_state h, State.setSegment_segments, setAt_get]
  split
  · exact .inl active
  · exact stays

theorem stall_keepsStore (s : State) (g : Fin 12) : KeepsStore s (s.stall g) :=
  (noticeDeparture_keepsStore (raiseEvent_storeView _ _ _ _ _)).trans (keepsStore_of_view (list_storeView _ _))

theorem exclude_keepsStore (s : State) (g : Fin 12) : KeepsStore s (s.exclude g) :=
  (noticeDeparture_keepsStore (raiseEvent_storeView _ _ _ _ _)).trans (keepsStore_of_view (list_storeView _ _))

theorem disableSegment_keepsStore (s : State) (g : Fin 12) : KeepsStore s (s.disableSegment g) :=
  KeepsStore.ite (.refl s) ((noticeDeparture_keepsStore rfl).trans (keepsStore_of_view (list_storeView _ _)))

theorem enableSegment_keepsStore (s : State) (g : Fin 12) : KeepsStore s (s.enableSegment g) :=
  KeepsStore.ite (activate_keepsStore rfl (list_storeView _ _)) (.refl s)

theorem takeHandover_keepsStore (s : State) (g : Fin 12) : KeepsStore s (s.takeHandover g) := by
  have judged (u : State) : KeepsStore u (u.judgeHandover g) := by
    unfold State.judgeHandover
    repeat' split
    all_goals first | exact .refl u | exact exclude_keepsStore u g
  exact KeepsStore.ite ((keepsStore_of_view (handovers_storeView s _)).trans (judged _)) (.refl s)

theorem notices_keepsStore (s : State) (m : Fin 16) (a : Access) : KeepsStore s (s.notices m a) := by
  have resumed (g : Fin 12) : KeepsStore s (s.resume g) :=
    activate_keepsStore rfl ((list_storeView _ _).trans (raiseEvent_storeView _ _ _ _ _))
  have restarted (g : Fin 12) : (s.restartTimer g).storeView = s.storeView := by simp [State.restartTimer]
  have noticed : KeepsStore s (s.noticeAccess m) := by
    unfold State.noticeAccess State.noticeSegment
    repeat' split
    · exact .refl s
    · exact .refl s
    · exact keepsStore_of_view (restarted _)
    · exact resumed _
    · exact .refl s
  unfold State.notices
  split
  · exact noticed
  · exact noticed.trans (keepsStore_of_view (snoop_storeView _ _ _ _))

/-! ## Departures (R64, R104) -/

/-- A departing segment that leaves the expected sets of some slots touches those slots and the write-back list only. -/
theorem leaveSlots_frame (g : Fin 12) (l : List (Fin 16)) : ∀ s : State, l.foldl (State.leaveSlot g) s =
    { s with
      slots := (l.foldl (State.leaveSlot g) s).slots
      writeBackList := (l.foldl (State.leaveSlot g) s).writeBackList } := by
  induction l with
  | nil => exact fun _ => rfl
  | cons n l ih => exact fun s => ih (State.leaveSlot g s n)

theorem leaveSlots_slot (g : Fin 12) (n : Fin 16) (l : List (Fin 16)) : ∀ s : State,
    (l.foldl (State.leaveSlot g) s).slots.get n = if n ∈ l then (s.slots.get n).leave g else s.slots.get n := by
  have twice (t : Slot) : (t.leave g).leave g = t.leave g := by simp [Slot.leave, List.filter_filter]
  induction l with
  | nil => exact fun _ => rfl
  | cons k l ih =>
    intro s
    have first : (State.leaveSlot g s k).slots.get n = if k = n then (s.slots.get k).leave g else s.slots.get n :=
      setAt_get _ _ _ _
    rw [List.foldl_cons, ih, first]
    by_cases here : k = n
    · subst here
      simp [twice]
    · simp [here, Ne.symm here]

theorem mem_slotsLeft (s : State) (g : Fin 12) (n : Fin 16) : n ∈ s.slotsLeft g ↔ (s.slots.get n).state ≠ .free ∧
    g ∈ (s.slots.get n).expected ∧ ((s.slots.get n).contribs.get g).state ≠ .done := by
  simp [State.slotsLeft, and_assoc]

/-- Once its notice has been taken a segment is in no expected set of a slot outside FREE in which it is not DONE, so that its
notice is not needed any more. -/
theorem takeDeparture_keepsStore (s : State) (g : Fin 12) : KeepsStore s (s.takeDeparture g) := by
  unfold State.takeDeparture
  split
  swap
  · exact .refl s
  let s0 : State := { s with departures := s.departures.erase g }
  let u : State := (s0.slotsLeft g).foldl (State.leaveSlot g) s0
  have slot (n : Fin 16) : u.slots.get n = if n ∈ s.slotsLeft g then (s.slots.get n).leave g else s.slots.get n :=
    leaveSlots_slot g n (s0.slotsLeft g) s0
  have frame := leaveSlots_frame g (s0.slotsLeft g) s0
  have allocs : u.allocs = s.allocs := (congrArg State.allocs frame).trans rfl
  have segments : u.segments = s.segments := (congrArg State.segments frame).trans rfl
  have departures : u.departures = s.departures.erase g := (congrArg State.departures frame).trans rfl
  have narrows (n : Fin 16) : (s.slots.get n).NarrowsTo (u.slots.get n) := by
    rw [slot]
    split
    · exact leave_narrows _ g
    · exact .refl _
  have left : KeepsStore s u := by
    refine ⟨fun sound => ?_, fun sound n => ⟨(sound n).1.sublist (narrows n).expected, fun busy x expected => ?_⟩⟩
    · have still : KeepsStore s { u with departures := s.departures } := narrowing_keepsStore allocs rfl segments narrows
      exact still.frames sound
    · have before := (sound n).2 ((narrows n).frame busy).1 x ((narrows n).expected.subset expected)
      rw [segments, departures]
      rcases before with active | done | leaving
      · exact .inl active
      · exact .inr (.inl ((narrows n).done x expected done))
      by_cases gone : x = g
      · subst gone
        refine .inr (.inl ?_)
        by_contra undone
        have leaves : n ∈ s.slotsLeft x := (mem_slotsLeft s x n).mpr ⟨((narrows n).frame busy).1,
          (narrows n).expected.subset expected, fun done => undone ((narrows n).done x expected done)⟩
        rw [slot, if_pos leaves] at expected
        exact absurd rfl (bne_iff_ne.mp (List.mem_filter.mp expected).2)
      · exact .inr (.inr ((List.mem_erase_of_ne gone).mpr leaving))
  exact left.trans (KeepsStore.foldl checkComplete_keepsStore _ u)

theorem giveNotices_keepsStore (s : State) : KeepsStore s s.giveNotices := by
  unfold State.giveNotices
  split
  · exact .refl s
  · exact (KeepsStore.foldl takeDeparture_keepsStore _ s).trans (keepsStore_of_view (settle_storeView _))

/-! ## Control-region writes and the two resets -/

theorem retireWindows_keepsStore (s : State) (ws : List (Fin 16)) : KeepsStore s (s.retireWindows ws) := by
  have slot (w : Fin 16) (u : State) (n : Fin 16) : KeepsStore u (State.retireSlot w u n) := by
    unfold State.retireSlot
    split
    · next retires => exact startFlush_filling_keepsStore _ retires.1
    · exact .refl u
  have begun (u : State) (w : Fin 16) : (u.beginRetiring w).storeView = u.storeView := rfl
  exact (keepsStore_of_view ((afterTiming_storeView _ _).trans (foldl_keeps State.storeView _ begun ws s))).trans
    ((KeepsStore.foldl (fun u w => KeepsStore.foldl (slot w) _ u) ws _).trans
      (keepsStore_of_view (foldl_keeps State.storeView _ endRetirement_storeView ws _)))

theorem disableWindow_keepsStore (s : State) (w : Fin 16) : KeepsStore s (s.disableWindow w) :=
  KeepsStore.ite (retireWindows_keepsStore s _) (.refl s)

theorem disableService_keepsStore (s : State) (v : Fin 8) : KeepsStore s (s.disableService v) := by
  have listed (u : State) (w : Fin 16) : (u.listEnable w).storeView = u.storeView := rfl
  have off (u : State) : ((s.windowsOf v).foldl State.listEnable (State.afterTiming s u)).storeView = u.storeView :=
    (foldl_keeps State.storeView _ listed _ _).trans (afterTiming_storeView s u)
  unfold State.disableService
  exact KeepsStore.ite ((keepsStore_of_view ((off _).trans (setService_storeView s v _))).trans
    (retireWindows_keepsStore _ _)) (.refl s)

theorem actEnable_keepsStore (s : State) (bs : List WByte) (id : RecordId) {on off : State → State}
    (h : ∀ s, KeepsStore s (on s)) (k : ∀ s, KeepsStore s (off s)) : KeepsStore s (s.actEnable bs id on off) := by
  unfold State.actEnable
  split
  · exact .refl s
  · exact KeepsStore.ite (k s) (h s)

theorem takeWindow_keepsStore (s : State) (bs : List WByte) (w : Fin 16) : KeepsStore s (s.takeWindow bs w) :=
  ((keepsStore_of_view ((listDirty_storeView _ _ _).trans (setWindow_storeView s w _))).trans
    (actEnable_keepsStore _ _ _ (fun u => keepsStore_of_view (enableWindow_storeView u w))
      (fun u => disableWindow_keepsStore u w))).trans (keepsStore_of_view (listDirty_storeView _ _ _))

theorem takeService_keepsStore (s : State) (bs : List WByte) (v : Fin 8) : KeepsStore s (s.takeService bs v) :=
  ((keepsStore_of_view ((listDirty_storeView _ _ _).trans (setService_storeView s v _))).trans
    (actEnable_keepsStore _ _ _ (fun u => keepsStore_of_view (enableService_storeView u v))
      (fun u => disableService_keepsStore u v))).trans (keepsStore_of_view (listDirty_storeView _ _ _))

theorem takeSegment_keepsStore (s : State) (bs : List WByte) (g : Fin 12) : KeepsStore s (s.takeSegment bs g) :=
  ((keepsStore_of_view ((listDirty_storeView _ _ _).trans (setSegment_storeView s g
      (decodeSegment (s.overlay bs (.segment g)) (s.segments.get g)) rfl))).trans
    (actEnable_keepsStore _ _ _ (fun u => enableSegment_keepsStore u g) (fun u => disableSegment_keepsStore u g))).trans
      (keepsStore_of_view (listDirty_storeView _ _ _))

theorem takeRecord_keepsStore (bs : List WByte) (s : State) (id : RecordId) : KeepsStore s (State.takeRecord bs s id) := by
  cases id with
  | window w => exact takeWindow_keepsStore s bs w
  | service v => exact takeService_keepsStore s bs v
  | segment g => exact takeSegment_keepsStore s bs g
  | zone z => exact keepsStore_of_view (takeZone_storeView s bs z)
  | cue c => exact keepsStore_of_view (takeCue_storeView s bs c)
  | status | accessFault | memoryFault | slot => exact .refl s

/-- A combine store with every slot as reset and no pending allocation is sound (R50, R80). -/
theorem keepsStore_of_reset {t : State} (s : State) (slots : t.slots = Vector.replicate 16 slotReset) (allocs : t.allocs = []) :
    KeepsStore s t := by
  have slot (n : Fin 16) : t.slots.get n = slotReset := by
    rw [slots]
    exact Vector.get_replicate 16 slotReset n
  refine ⟨fun _ => ⟨fun n k busy => ?_, fun n p held => ?_, ?_⟩, fun _ n => ?_⟩
  · rw [slot] at busy
    exact absurd rfl busy
  · rw [allocs] at held
    cases held
  · rw [allocs]
    exact .nil
  · rw [slot]
    exact ⟨List.nodup_nil, fun busy => absurd rfl busy⟩

theorem hardReset_keepsStore (s : State) : KeepsStore s s.hardReset := keepsStore_of_reset s rfl rfl

theorem softReset_keepsStore (s : State) : KeepsStore s s.softReset :=
  (keepsStore_of_reset s rfl rfl).trans (keepsStore_of_view (foldl_keeps State.storeView _ reclassify_storeView _ _))

theorem treatControlWrite_keepsStore (s : State) (m : Fin 16) (a : Access) : KeepsStore s (s.treatControlWrite m a) := by
  have charged := keepsStore_of_view (chargeProtected_storeView s m a)
  have performed (u : State) (be : List Enables) (ids : List RecordId) (bs : List WByte) :
      KeepsStore u (u.performWrite m a be ids bs) :=
    (KeepsStore.foldl (takeRecord_keepsStore bs) ids u).trans (keepsStore_of_view (takeRequest_storeView _ bs m))
  unfold State.treatControlWrite
  exact KeepsStore.ite (keepsStore_of_view rfl)
    (KeepsStore.ite ((charged.trans (performed _ _ _ _)).trans (softReset_keepsStore _)) (charged.trans (performed _ _ _ _)))

/-! ## What the part does of itself -/

theorem treat_keepsStore (s : State) (m : Fin 16) : KeepsStore s (s.treat m) := by
  have window (a : Access) (h : WinHit) : KeepsStore s (s.treatWindow m a h) := by
    unfold State.treatWindow
    split
    · exact treatUplinkWrite_keepsStore _ _ _ _
    · exact treatUplinkRead_keepsStore _ _ _ _
    · exact keepsStore_of_view (sendThrough_storeView _ _ _ _ _ _)
    · exact keepsStore_of_view (treatDownlinkRead_storeView _ _ _ _)
    · exact keepsStore_of_view (sendThrough_storeView _ _ _ _ _ _)
    · exact keepsStore_of_view (treatProgramRead_storeView _ _ _ _)
  unfold State.treat
  repeat' split
  · exact window _ _
  · exact keepsStore_of_view (passUnchanged_storeView _ _ _)
  · exact keepsStore_of_view (treatControlRead_storeView _ _ _)
  · exact treatControlWrite_keepsStore _ _ _
  · exact .refl s

theorem takeAccess_keepsStore (s : State) (m : Fin 16) : KeepsStore s (s.takeAccess m) := by
  unfold State.takeAccess
  split
  · exact (notices_keepsStore _ _ _).trans (keepsStore_of_view (check_storeView _ _ _))
  · exact .refl s

theorem popDue_actDue_keepsStore (s : State) (d : Due) : KeepsStore s (s.popDue.actDue d) := by
  have popped : KeepsStore s s.popDue := keepsStore_of_view rfl
  cases d with
  | take m => exact popped.trans (takeAccess_keepsStore _ m)
  | hand m => exact popped.trans (treat_keepsStore _ m)

theorem doDue_keepsStore (s : State) (d : Due) : KeepsStore s (s.doDue d) :=
  ((popDue_actDue_keepsStore s d).trans (keepsStore_of_view (settle_storeView _))).trans (giveNotices_keepsStore _)

theorem workOff_keepsStore {own : State → Due → Option State} (h : ∀ s d t, own s d = some t → KeepsStore s t) :
    ∀ (fuel : Nat) (s : State), KeepsStore s (State.workOff own fuel s)
  | 0, s => .refl s
  | fuel + 1, s => by
    unfold State.workOff
    split
    · exact .refl s
    · split
      · next e => exact h _ _ _ e
      · exact (doDue_keepsStore s _).trans (workOff_keepsStore h fuel _)

theorem catchUpTo_keepsStore {own : State → Due → Option State} (h : ∀ s d t, own s d = some t → KeepsStore s t) (s : State) :
    KeepsStore s (s.catchUpTo own) := (giveNotices_keepsStore s).trans (workOff_keepsStore h _ _)

theorem catchUp_keepsStore (s : State) : KeepsStore s s.catchUp := catchUpTo_keepsStore (fun _ _ _ own => by cases own) s

end Sys2Proof.Machine
end

section
/-! The promises about the combine store kept by every step: each command ends in a state that `KeepsStore` them, and so does a
tick (R49, R64). -/

namespace Sys2Proof.Machine

/-! ## The commands that stand for a due item -/

theorem ownTaking_keepsStore (m : Fin 16) (s : State) (d : Due) (t : State) (h : State.ownTaking m s d = some t) :
    KeepsStore s t := by
  unfold State.ownTaking at h
  split at h
  · obtain rfl := Option.some.inj h
    exact popDue_actDue_keepsStore s (.take m)
  · cases h

theorem ownHanding_keepsStore {m : Fin 16} {f : State → Access → Cls → Option State}
    (k : ∀ s a c t, f s a c = some t → KeepsStore s t) (s : State) (d : Due) (t : State)
    (h : State.ownHanding m f s d = some t) : KeepsStore s t := by
  have popped : KeepsStore s s.popDue := keepsStore_of_view rfl
  unfold State.ownHanding at h
  split at h
  · split at h
    · exact popped.trans (k _ _ _ _ h)
    · cases h
  · cases h

theorem asWindow_keepsStore (s : State) (m : Fin 16) (r : Role) (d : Dir) {f : State → Access → WinHit → State}
    (h : ∀ s a hit, KeepsStore s (f s a hit)) : KeepsStore s (s.asWindow m r d f) := by
  refine catchUpTo_keepsStore (ownHanding_keepsStore fun s a c t e => ?_) s
  cases c with
  | window hit =>
    dsimp only at e
    split at e
    · obtain rfl := Option.some.inj e
      exact h s a hit
    · cases e
  | control | unwindowed => cases e

theorem asControl_keepsStore (s : State) (m : Fin 16) (d : Dir) (p : State → Access → Bool) {f : State → Access → State}
    (h : ∀ s a, KeepsStore s (f s a)) : KeepsStore s (s.asControl m d p f) := by
  refine catchUpTo_keepsStore (ownHanding_keepsStore fun s a c t e => ?_) s
  cases c with
  | control =>
    dsimp only at e
    split at e
    · obtain rfl := Option.some.inj e
      exact h s a
    · cases e
  | window | unwindowed => cases e

theorem asUnwindowed_keepsStore (s : State) (m : Fin 16) {f : State → Access → State} (h : ∀ s a, KeepsStore s (f s a)) :
    KeepsStore s (s.asUnwindowed m f) := by
  refine catchUpTo_keepsStore (ownHanding_keepsStore fun s a c t e => ?_) s
  cases c with
  | unwindowed =>
    obtain rfl := Option.some.inj e
    exact h s a
  | window | control => cases e

theorem asControl_write_keepsStore (s : State) (m : Fin 16) (p : State → Access → Bool) :
    KeepsStore s (s.asControl m .write p fun s a => s.treatControlWrite m a) :=
  asControl_keepsStore s m .write p fun s a => treatControlWrite_keepsStore s m a

/-! ## The answers of the memory -/

theorem answerBurst_keepsStore (s : State) (n k : Fin 16) (ok : Bool) : KeepsStore s (s.answerBurst n k ok) := by
  unfold State.answerBurst
  repeat' split
  · exact keepsStore_of_view rfl
  · exact .refl s
  · exact answerFlush_keepsStore _ _ _ _ _
  · exact .refl s

theorem completeFetch_keepsStore (s : State) (f : MapFetch) (ok : Bool) (e : Word) : KeepsStore s (s.completeFetch f ok e) := by
  have gives (p : Addr) (u : State) (r : TransReq) : KeepsStore u (State.giveRequest p u r) := by
    unfold State.giveRequest
    split
    · exact keepsStore_of_view (giveMaster_storeView _ _ _)
    · exact issueBursts_keepsStore _ _ _
  have refuses (u : State) (r : TransReq) : KeepsStore u (u.refuseRequest r) := by
    unfold State.refuseRequest
    split
    · exact keepsStore_of_view (refuseMaster_storeView _ _)
    · exact flushRefused_keepsStore _ _
  have ended : (s.endFetch f.request).storeView = s.storeView := rfl
  have cached (u : State) (p : Addr) : (u.createCacheEntry f.request p).storeView = u.storeView := rfl
  have fails (k : FaultKind) : KeepsStore s (s.failFetch f.request k) :=
    (keepsStore_of_view ((raiseFault_storeView _ _ _ _ _).trans ended)).trans (KeepsStore.foldl refuses _ _)
  have fills : KeepsStore s (s.fillFetch f.request e) :=
    (keepsStore_of_view ((cached _ _).trans ended)).trans (KeepsStore.foldl (gives _) _ _)
  exact KeepsStore.ite (keepsStore_of_view rfl) (KeepsStore.ite (fails _) (KeepsStore.ite fills (fails _)))

/-! ## Every command and the tick -/

theorem done_keepsStore {s t u : State} (h : KeepsStore s u) (e : done u = .next t) : KeepsStore s t := by
  obtain rfl : u.settle = t := by injection e
  exact h.trans (keepsStore_of_view (settle_storeView u))

theorem done_catchUp_keepsStore {s t u : State} (h : KeepsStore s.catchUp u) (e : done u = .next t) : KeepsStore s t :=
  done_keepsStore ((catchUp_keepsStore s).trans h) e

/-- A command that leaves alone what the promises about the combine store look at. -/
theorem done_catchUp_keepsStore_of_view {s t u : State} (h : u.storeView = s.catchUp.storeView) (e : done u = .next t) :
    KeepsStore s t := done_catchUp_keepsStore (keepsStore_of_view h) e

theorem present_storeView (s : State) (a : Access) : (s.present a).storeView = s.storeView := rfl

theorem execAccessRequest_keepsStore (a : Access) (s t : State) (e : execAccessRequest a s = .next t) : KeepsStore s t := by
  unfold execAccessRequest at e
  split at e
  · exact done_catchUp_keepsStore_of_view (present_storeView _ a) e
  · cases e

theorem execMapFetchComplete_keepsStore (ok : Bool) (entry : Word) (s t : State)
    (e : execMapFetchComplete ok entry s = .next t) : KeepsStore s t := by
  refine done_catchUp_keepsStore ?_ e
  split
  · exact .refl _
  · exact completeFetch_keepsStore _ _ _ _

theorem execImageWriteOutBurstAnswer_keepsStore (k : Fin 80) (ok : Bool) (s t : State)
    (e : execImageWriteOutBurstAnswer k ok s = .next t) : KeepsStore s t := by
  refine done_catchUp_keepsStore ?_ e
  repeat' split
  · exact .refl _
  · exact keepsStore_of_view (answerWriteOut_storeView _ _ _ _)
  · exact .refl _

theorem execWriteBackBurstAnswer_keepsStore (k : Fin 2) (ok : Bool) (s t : State)
    (e : execWriteBackBurstAnswer k ok s = .next t) : KeepsStore s t := by
  refine done_catchUp_keepsStore ?_ e
  repeat' split
  · exact .refl _
  · exact keepsStore_of_view (answerWriteBack_storeView _ _ _ _)
  · exact .refl _

/-- An expired deadline is that of a FILLING slot (R67). -/
theorem execDeadlineExpiry_keepsStore (n : Fin 16) (s t : State) (e : execDeadlineExpiry n s = .next t) : KeepsStore s t := by
  refine done_catchUp_keepsStore ?_ e
  split
  · next expired => exact startFlush_filling_keepsStore _ (beq_iff_eq.mp (Bool.and_eq_true_iff.mp expired).1)
  · exact .refl _

theorem execDepartureNotice_keepsStore (g : Fin 12) (s t : State) (e : execDepartureNotice g s = .next t) :
    KeepsStore s t :=
  done_keepsStore (KeepsStore.ite ((KeepsStore.foldl takeDeparture_keepsStore _ s).trans (takeDeparture_keepsStore _ g))
    (catchUp_keepsStore s)) e

theorem exec_keepsStore (c : Instr) (s t : State) (e : exec c s = .next t) : KeepsStore s t := by
  cases c with
  | hardReset => exact done_keepsStore (hardReset_keepsStore s) e
  | resetRelease => exact done_catchUp_keepsStore_of_view (release_storeView _ _ _ _) e
  | accessRequest a => exact execAccessRequest_keepsStore a s t e
  | accessTakenForService m => exact done_keepsStore (catchUpTo_keepsStore (ownTaking_keepsStore m) s) e
  | unwindowedAccess m =>
    exact done_keepsStore (asUnwindowed_keepsStore s m fun s a => keepsStore_of_view (passUnchanged_storeView s m a)) e
  | uplinkWrite m => exact done_keepsStore (asWindow_keepsStore s m _ _ fun s a h => treatUplinkWrite_keepsStore s m a h) e
  | uplinkRead m => exact done_keepsStore (asWindow_keepsStore s m _ _ fun s a h => treatUplinkRead_keepsStore s m a h) e
  | downlinkWrite m | programWrite m =>
    exact done_keepsStore (asWindow_keepsStore s m _ _ fun s a h =>
      keepsStore_of_view (sendThrough_storeView s m a h .plain false)) e
  | downlinkRead m =>
    exact done_keepsStore (asWindow_keepsStore s m _ _ fun s a h => keepsStore_of_view (treatDownlinkRead_storeView s m a h)) e
  | programRead m =>
    exact done_keepsStore (asWindow_keepsStore s m _ _ fun s a h => keepsStore_of_view (treatProgramRead_storeView s m a h)) e
  | controlRegionRead m =>
    exact done_keepsStore (asControl_keepsStore s m _ _ fun s a => keepsStore_of_view (treatControlRead_storeView s m a)) e
  | controlRegionWrite m | windowEnable m | windowDisable m | serviceEnable m | serviceDisable m | segmentEnable m
  | segmentDisable m | zoneTimingServiceWrite m | cueStart m | cueStop m | latchSet m | latchClear m | accessFaultClear m
  | memoryFaultClear m | eventConsumerIndexWrite m | missLimitWrite m | eventEnableMaskWrite m | softReset m =>
    exact done_keepsStore (asControl_write_keepsStore s m _) e
  | memoryAccessAnswer m r =>
    exact done_catchUp_keepsStore_of_view (withIssued_storeView _ m r _ fun a i => answerAccess_storeView _ m a i r) e
  | clipReadAnswer m r =>
    exact done_catchUp_keepsStore_of_view (withIssued_storeView _ m r _ fun a i => answerClip_storeView _ m a i r) e
  | talkthroughSourceAnswer m r =>
    exact done_catchUp_keepsStore_of_view (withIssued_storeView _ m r _ fun a i => answerSource_storeView _ m a i r) e
  | deadlineExpiry n => exact execDeadlineExpiry_keepsStore n s t e
  | flushBurstAnswer n k ok => exact done_catchUp_keepsStore (answerBurst_keepsStore _ n k ok) e
  | translationQueueJoin => exact done_catchUp_keepsStore_of_view (joinFromWait_storeView _) e
  | mapFetchIssue => exact done_catchUp_keepsStore_of_view (issueFetch_storeView _) e
  | mapFetchComplete ok entry => exact execMapFetchComplete_keepsStore ok entry s t e
  | activityTimerExpiry g => exact done_catchUp_keepsStore (KeepsStore.ite (stall_keepsStore _ g) (.refl _)) e
  | segmentExclusionHandover g => exact done_catchUp_keepsStore (takeHandover_keepsStore _ g) e
  | departureNotice g => exact execDepartureNotice_keepsStore g s t e
  | incidentLineChange high => exact done_catchUp_keepsStore_of_view (changeLine_storeView _ high) e
  | qualificationTimerExpiry =>
    exact done_catchUp_keepsStore (KeepsStore.ite (keepsStore_of_view (qualify_storeView _)) (.refl _)) e
  | imageWriteOutBurstAnswer k ok => exact execImageWriteOutBurstAnswer_keepsStore k ok s t e
  | writeBackStart => exact done_catchUp_keepsStore_of_view (startWriteBack_storeView _) e
  | writeBackBurstAnswer k ok => exact execWriteBackBurstAnswer_keepsStore k ok s t e
  | eventWriteIssue => exact done_catchUp_keepsStore_of_view (issueEvent_storeView _) e
  | eventWriteAnswer ok => exact done_catchUp_keepsStore_of_view (answerEvent_storeView _ ok) e

theorem tick_keepsStore (s : State) : KeepsStore s s.tick := by
  have before : KeepsStore s s.catchUp.settle := (catchUp_keepsStore s).trans (keepsStore_of_view (settle_storeView _))
  unfold State.tick
  generalize s.catchUp.settle = u at before
  exact KeepsStore.ite before (before.trans (keepsStore_of_view rfl))

/-- Settles O57: a step is a tick or a command taken off the queue, of which neither promise speaks, and both keep them. -/
theorem framesKept : Obligations.FramesKept := by
  intro s t e
  unfold step at e
  split at e
  · obtain rfl : s.tick = t := by injection e
    exact ⟨(tick_keepsStore s).frames, (tick_keepsStore s).expects⟩
  · have kept := exec_keepsStore _ _ _ e
    exact ⟨kept.frames, kept.expects⟩

end Sys2Proof.Machine
end

section
/-! A burst judged as a contribution to a FILLING slot (R58 to R61). -/

namespace Sys2Proof.Machine

theorem judgeUplink_filling {s : State} {m : Fin 16} {g : Fin 12} {a : Access} {hit : WinHit} {n : Fin 16}
    (member : (s.segments.get g).state ≠ .excluded) (held : s.slotOf hit.window hit.frame = some n)
    (filling : (s.slots.get n).state = .filling) : s.judgeUplink m g a hit = s.joinSlot n m g a hit.offset false := by
  unfold State.judgeUplink
  rw [if_neg member, held]
  exact if_pos filling

/-- The burst broke its contribution or completed it, so that its slot is checked for completion (R59, R60). -/
def Verdict.checks : Verdict → Bool
  | .sequence => false
  | .late => false
  | .breaks => true
  | .accepted completes => completes

theorem contribute_fst (s : State) (n : Fin 16) (g : Fin 12) (a : Access) (o : Nat) :
    (s.contribute n g a o).1 = ((s.slots.get n).judge g o a.len).checks := by
  unfold State.contribute
  dsimp only
  cases (s.slots.get n).judge g o a.len <;> rfl

theorem judge_checks (t : Slot) (g : Fin 12) (o n : Nat) : (t.judge g o n).checks =
    let c := t.contribs.get g
    if c.state = .done ∨ c.state = .broken then false
    else if g ∉ t.expected then false
    else if o ≠ c.next then true
    else if c.next + n < 256 then false
    else true := by
  have last : decide (256 ≤ (t.contribs.get g).next + n) = if (t.contribs.get g).next + n < 256 then false else true := by
    split <;> simp <;> omega
  have absent : (!t.expected.contains g) = true ↔ g ∉ t.expected := by simp
  unfold Slot.judge
  simp only [apply_ite Verdict.checks, absent]
  simp only [Verdict.checks, last]

theorem joinSlot_checked {s : State} {n m : Fin 16} {g : Fin 12} {a : Access} {o : Nat} (fresh : Bool)
    (checks : (s.contribute n g a o).1 = true) :
    s.joinSlot n m g a o fresh = ((s.contribute n g a o).2.respond m true []).checkComplete n := by
  unfold State.joinSlot
  dsimp only
  rw [checks]
  rfl

theorem joinSlot_unchecked {s : State} {n m : Fin 16} {g : Fin 12} {a : Access} {o : Nat} (fresh : Bool)
    (unchecked : (s.contribute n g a o).1 = false) :
    s.joinSlot n m g a o fresh = if fresh then ((s.contribute n g a o).2.respond m true []).checkComplete n
      else (s.contribute n g a o).2.respond m true [] := by
  unfold State.joinSlot
  dsimp only
  rw [unchecked]
  rfl

/-- Settles O33: `contribute_eq` says what the burst does, `judge_checks` whether the slot is then checked. -/
theorem uplinkBurstJudged : Obligations.UplinkBurstJudged := by
  refine ⟨fun s m a hit g n turn role write segment carries whole member held filling => ?_,
    fun s n m g a o fresh write formed => ?_⟩
  · have judged : s.popDue.treatUplinkWrite m a hit = s.popDue.joinSlot n m g a hit.offset false :=
      (treatUplinkWrite_whole (s := s.popDue) segment carries whole).trans (judgeUplink_filling member held filling)
    rw [exec_uplinkWrite turn role write, judged]
    rfl
  · intro t c e checkIf sequence late xs gate gain gated d taken v gate'
    have does := contribute_eq s n g a o
    have checks := (contribute_fst s n g a o).trans (judge_checks _ g o _)
    dsimp only at does checks
    by_cases closed : c.state = .done ∨ c.state = .broken
    · rw [if_pos closed] at does checks
      rw [if_pos closed, joinSlot_unchecked fresh checks, does]
      rfl
    rw [if_neg closed] at does checks
    by_cases unexpected : g ∉ t.expected
    · rw [if_pos unexpected] at does checks
      rw [if_neg closed, if_pos unexpected, joinSlot_unchecked fresh checks, does]
      rfl
    rw [if_neg unexpected] at does checks
    by_cases skips : o ≠ c.next
    · rw [if_pos skips] at does checks
      rw [if_neg closed, if_neg unexpected, if_pos skips, joinSlot_checked fresh checks, does]
      rfl
    have accepted : t.accept g e.uplinkGain gate o (Access.lanes a) = { t with
        acc := if gated then t.acc else addBurst t.acc o gain xs
        contribs := setAt t.contribs g d } := accept_eq t g _ gate _ _ _ (lanes_length write formed) closed
    rw [if_neg skips, accepted] at does
    rw [if_neg skips] at checks
    rw [if_neg closed, if_neg unexpected, if_neg skips]
    by_cases short : c.next + a.len < 256
    · rw [if_pos short] at does checks
      rw [if_pos short, joinSlot_unchecked fresh checks, does]
    · have power : (({ t with
          acc := if gated then t.acc else addBurst t.acc o gain xs
          contribs := setAt t.contribs g d } : Slot).contribs.get g).power = d.power := by rw [setAt_get, if_pos rfl]
      rw [if_neg short, updateGate_setSlot_list, power] at does
      rw [if_neg short] at checks
      rw [if_neg short, joinSlot_checked fresh checks, does]
      rfl

end Sys2Proof.Machine
end

section
/-! A write that finds a new frame: the horizon, the allocation and the eviction (R51 to R54). -/

namespace Sys2Proof.Machine

/-! ## The horizon -/

/-- A frame is new while the window has no horizon, and from distance 1 to half the window less 1 ahead of one (R51). -/
theorem newFrame_ahead {horizon : Option Nat} {frames f : Nat}
    (ahead : ∀ h, horizon = some h → 1 ≤ (f + frames - h % frames) % frames ∧
      (f + frames - h % frames) % frames ≤ frames / 2 - 1) : newFrame horizon frames f = true := by
  cases horizon with
  | none => rfl
  | some h =>
    obtain ⟨low, high⟩ := ahead h rfl
    unfold newFrame
    dsimp only
    rw [decide_eq_true low, decide_eq_true high]
    rfl

section
variable (s : State) (w : Fin 16) (f : Nat)

@[simp] theorem moveHorizon_slots : (s.moveHorizon w f).slots = s.slots := by simp [State.moveHorizon]

@[simp] theorem moveHorizon_allocs : (s.moveHorizon w f).allocs = s.allocs := by simp [State.moveHorizon]

@[simp] theorem moveHorizon_services : (s.moveHorizon w f).services = s.services := by simp [State.moveHorizon]

@[simp] theorem moveHorizon_segments : (s.moveHorizon w f).segments = s.segments := by simp [State.moveHorizon]

@[simp] theorem moveHorizon_timebase : (s.moveHorizon w f).timebase = s.timebase := by simp [State.moveHorizon]

@[simp] theorem moveHorizon_service : ((s.moveHorizon w f).windows.get w).service = (s.windows.get w).service := by
  simp [State.moveHorizon]

end

/-! ## The slot that a new frame finds (R52, R54) -/

theorem State.freeSlot_eq_some_iff (s : State) (n : Fin 16) :
    let isFree (n : Fin 16) : Prop := (s.slots.get n).state = .free ∧ (s.slots.get n).claimed = false
    s.freeSlot = some n ↔ isFree n ∧ ∀ k, k < n → ¬isFree k := by
  intro isFree
  have free (k : Fin 16) : ((s.slots.get k).state == .free && !(s.slots.get k).claimed) = true ↔ isFree k := by simp [isFree]
  refine (find?_finRange_eq_some_iff _ n).trans (and_congr (free n) ?_)
  exact forall_congr' fun k => imp_congr_right fun _ => not_congr (free k)

theorem State.freeSlot_eq_none_iff (s : State) :
    s.freeSlot = none ↔ ∀ n, ¬((s.slots.get n).state = .free ∧ (s.slots.get n).claimed = false) := by
  simp [State.freeSlot, List.find?_eq_none]

/-- The nearer a slot is to its deadline, the more urgent. -/
def State.urgency (s : State) (n : Fin 16) : Nat := 2 ^ 32 - s.remaining n

theorem State.urgency_lt_iff (s : State) (n k : Fin 16) : s.urgency k < s.urgency n ↔ s.remaining n < s.remaining k := by
  have inRange (n : Fin 16) : s.remaining n < 2 ^ 32 := BitVec.isLt _
  have := inRange n
  have := inRange k
  unfold State.urgency
  omega

theorem State.nearestFilling_eq (s : State) : s.nearestFilling =
    (List.finRange 16).foldl (better (fun n => (s.slots.get n).state == .filling) s.urgency) none := by
  unfold State.nearestFilling
  congr 1
  funext best n
  refine if_congr beq_iff_eq.symm ?_ rfl
  cases best with
  | none => rfl
  | some b => exact if_congr (s.urgency_lt_iff n b).symm rfl rfl

/-- A new pending allocation claims the FILLING slot nearest to its deadline, the lowest among equals (R54). -/
theorem State.claimable_filling {s : State} {n : Fin 16} (filling : (s.slots.get n).state = .filling)
    (nearest : ∀ k, (s.slots.get k).state = .filling →
      s.remaining n < s.remaining k ∨ (s.remaining n = s.remaining k ∧ n ≤ k)) : s.claimable = some n := by
  have found : s.nearestFilling = some n := by
    rw [s.nearestFilling_eq]
    have isFilling : ((s.slots.get n).state == .filling) = true := beq_iff_eq.mpr filling
    refine foldl_better_some _ _ n isFilling (fun k hk => ?_) _ (List.pairwise_lt_finRange 16)
      (List.mem_finRange n) none nofun
    rcases nearest k (beq_iff_eq.mp hk) with nearer | ⟨same, lower⟩
    · exact .inl ((s.urgency_lt_iff n k).mpr nearer)
    · refine .inr ⟨?_, lower⟩
      unfold State.urgency
      rw [same]
  unfold State.claimable
  rw [found]

/-- With no slot FILLING it claims the lowest unclaimed FLUSHING one (R54). -/
theorem State.claimable_flushing {s : State} {n : Fin 16} (none : ∀ k, (s.slots.get k).state ≠ .filling)
    (flushing : (s.slots.get n).state = .flushing ∧ (s.slots.get n).claimed = false)
    (lowest : ∀ k, k < n → ¬((s.slots.get k).state = .flushing ∧ (s.slots.get k).claimed = false)) :
    s.claimable = some n := by
  have noneFilling : s.nearestFilling = Option.none := by
    rw [s.nearestFilling_eq]
    exact foldl_better_none _ _ _ (fun k _ hk => none k (beq_iff_eq.mp hk)) _
  have free (k : Fin 16) : ((s.slots.get k).state == .flushing && !(s.slots.get k).claimed) = true ↔
      (s.slots.get k).state = .flushing ∧ (s.slots.get k).claimed = false := by simp
  unfold State.claimable
  rw [noneFilling]
  exact (find?_finRange_eq_some_iff _ n).mpr ⟨(free n).mpr flushing, fun k hk => mt (free k).mp (lowest k hk)⟩

/-! ## The judgement against the horizon -/

section
variable {s : State} {m : Fin 16} {g : Fin 12} {a : Access} {hit : WinHit}

theorem judgeUplink_unheld (member : (s.segments.get g).state ≠ .excluded) (unheld : s.slotOf hit.window hit.frame = none)
    (unclaimed : s.allocOf hit.window hit.frame = none) : s.judgeUplink m g a hit = s.judgeHorizon m g a hit := by
  unfold State.judgeUplink
  rw [if_neg member, unheld]
  simp only [unclaimed]

variable (new : newFrame (s.windows.get hit.window).horizon (s.windows.get hit.window).frames hit.frame = true)
include new

theorem judgeHorizon_allocates {n : Fin 16} (free : (s.moveHorizon hit.window hit.frame).freeSlot = some n) :
    s.judgeHorizon m g a hit =
      ((s.moveHorizon hit.window hit.frame).allocate n hit.window hit.frame).joinSlot n m g a hit.offset true := by
  unfold State.judgeHorizon
  simp only [new, if_true, free]

theorem judgeHorizon_claims {n : Fin 16} (full : (s.moveHorizon hit.window hit.frame).freeSlot = none)
    (claims : (s.moveHorizon hit.window hit.frame).claimable = some n) :
    s.judgeHorizon m g a hit = (s.moveHorizon hit.window hit.frame).createAlloc n m hit := by
  unfold State.judgeHorizon
  simp only [new, if_true, full, claims]

end

/-- The slot that is allocated after the horizon has moved, in the terms of the state before (R52, R53). -/
theorem moveHorizon_freshSlot (s : State) (w : Fin 16) (f : Nat) :
    let v := (s.windows.get w).service
    let deadline := (s.services.get v).deadline
    (s.moveHorizon w f).freshSlot w f =
      { state := .filling, window := w, frame := f, service := v, allocTick := s.now,
        deadlineTick := s.now + BitVec.ofNat 32 deadline,
        expected := (List.finRange 12).filter (fun x =>
          (s.segments.get x).state = .active ∧ (s.segments.get x).uplinkServices.getLsbD v.val = true),
        contribs := Vector.replicate 12 { state := .none, next := 0, gated := false, gain := 0, power := 0 },
        acc := List.replicate 256 { lo := 0, hi := 0 }, satCount := 0, outcome := .none, claimed := false,
        timer := some (s.timebase + deadline), held := [], flush := none } := by
  have expected (v : Fin 8) : s.expectedSet v = (List.finRange 12).filter (fun x =>
      (s.segments.get x).state = .active ∧ (s.segments.get x).uplinkServices.getLsbD v.val = true) := by
    refine List.filter_congr fun x _ => Bool.eq_iff_iff.mpr ?_
    simp
  have moved (v : Fin 8) : (s.moveHorizon w f).expectedSet v = s.expectedSet v := by simp [State.expectedSet]
  have now : (s.moveHorizon w f).now = s.now := by simp [State.now]
  unfold State.freshSlot
  dsimp only
  rw [moved, now, expected, moveHorizon_service, moveHorizon_services, moveHorizon_timebase]
  rfl

/-- The part once a write waits on a pending allocation that has claimed slot `n` (R54). -/
def State.claimedFor (s : State) (n m : Fin 16) (hit : WinHit) : State :=
  (({ s with allocs := s.allocs ++ [{ window := hit.window, frame := hit.frame, slot := n, writers := [m] }] } :
    State).setStage m (.heldPending hit)).setSlot n { s.slots.get n with claimed := true }

theorem createAlloc_flushing {s : State} {n : Fin 16} (m : Fin 16) (hit : WinHit)
    (flushing : (s.slots.get n).state = .flushing) : s.createAlloc n m hit = s.claimedFor n m hit :=
  if_neg (by rw [flushing]; exact nofun)

/-- A FILLING slot that is claimed is evicted (R54). -/
theorem createAlloc_filling {s : State} {n : Fin 16} (m : Fin 16) (hit : WinHit)
    (filling : (s.slots.get n).state = .filling) :
    let v := s.services.get (s.slots.get n).service
    s.createAlloc n m hit = ((((s.claimedFor n m hit).setService (s.slots.get n).service
      { v with evictions := min (v.evictions + 1) 65535 }).listIf (v.evictions < 65535)
        (.service (s.slots.get n).service)).raiseEvent .slotEvicted n.val 0 0).startFlush n .evicted :=
  if_pos filling

/-- Settles O34: the frame is new, so the horizon moves; then the slots, which it leaves alone, decide. -/
theorem uplinkFrameAllocated : Obligations.UplinkFrameAllocated := by
  intro s m a hit g turn role write segment carries whole member unheld unclaimed e frames ahead s0 ends moved deadline isFree
    left waiting
  have new : newFrame (s0.windows.get hit.window).horizon (s0.windows.get hit.window).frames hit.frame = true :=
    newFrame_ahead ahead
  have judges : ends (s0.judgeHorizon m g a hit) := by
    have treated : s0.treatUplinkWrite m a hit = s0.judgeHorizon m g a hit :=
      (treatUplinkWrite_whole (s := s0) segment carries whole).trans (judgeUplink_unheld (s := s0) member unheld unclaimed)
    exact treated ▸ exec_uplinkWrite turn role write
  have answered {u : State} (h : s0.judgeHorizon m g a hit = u) : ends u := h ▸ judges
  have isMoved : s0.moveHorizon hit.window hit.frame = moved := rfl
  have slots : moved.slots = s.slots := moveHorizon_slots s0 _ _
  have services : moved.services = s.services := moveHorizon_services s0 _ _
  have allocs : moved.allocs = s.allocs := moveHorizon_allocs s0 _ _
  have remaining (n : Fin 16) : moved.remaining n = left n := by
    have now : moved.now = s.now := congrArg (BitVec.ofNat 32) (moveHorizon_timebase s0 _ _)
    unfold State.remaining
    rw [slots, now]
  have claimed (n : Fin 16) : moved.claimedFor n m hit = waiting n := by
    have slot : moved.slots.get n = s.slots.get n := by rw [slots]
    unfold State.claimedFor
    rw [slot, allocs]
  refine ⟨fun n free lowest => answered ?_, fun full => ⟨fun n filling nearest => answered ?_,
    fun none n flushing unclaimed lowest => answered ?_⟩⟩
  · have found : moved.freeSlot = some n := (State.freeSlot_eq_some_iff moved n).mpr (slots ▸ ⟨free, lowest⟩)
    rw [judgeHorizon_allocates new found, State.allocate, moveHorizon_freshSlot]
    rfl
  · have none : moved.freeSlot = none := moved.freeSlot_eq_none_iff.mpr (slots ▸ full)
    have claims : moved.claimable = some n :=
      State.claimable_filling (slots ▸ filling) fun k hk => by
        rw [remaining, remaining]
        exact nearest k (slots ▸ hk)
    rw [judgeHorizon_claims new none claims, isMoved, createAlloc_filling m hit (slots ▸ filling), claimed, slots, services]
  · have noFree : moved.freeSlot = Option.none := moved.freeSlot_eq_none_iff.mpr (slots ▸ full)
    have claims : moved.claimable = some n :=
      State.claimable_flushing (slots ▸ none) (slots ▸ ⟨flushing, unclaimed⟩) (slots ▸ lowest)
    rw [judgeHorizon_claims new noFree claims, isMoved, createAlloc_flushing m hit (slots ▸ flushing), claimed]

end Sys2Proof.Machine
end

section
/-! An UPLINK read served from its slot under THROUGH (R76). -/

namespace Sys2Proof.Machine

theorem treatUplinkRead_through {s : State} {m : Fin 16} {a : Access} {hit : WinHit} {n : Fin 16}
    (held : s.slotOf hit.window hit.frame = some n) (through : (s.services.get hit.service).through = true) :
    s.treatUplinkRead m a hit = s.respond m true ((s.slots.get n).throughData hit.offset a.be) := by
  unfold State.treatUplinkRead
  rw [held]
  exact if_pos through

/-! ## What a response leaves at the memory port -/

theorem respond_stage (s : State) (m k : Fin 16) (ok : Bool) (d : List Word) :
    (s.respond m ok d).stage k = if m = k then .waiting else s.stage k := by
  have ports : (s.respond m ok d).ports.get k =
      if m = k then { queue := (s.ports.get m).queue.tail, stage := .waiting } else s.ports.get k := setAt_get _ _ _ _
  unfold State.stage
  rw [ports]
  split <;> rfl

/-- The response to an access that was not at the memory port changes nothing there. -/
theorem respond_memoryPort {s : State} {m : Fin 16} (ok : Bool) (d : List Word) (absent : (s.stage m).portAccesses = []) :
    (s.respond m ok d).memoryPort = s.memoryPort := by
  have masters : (fun k => ((s.respond m ok d).stage k).portAccesses) = fun k => (s.stage k).portAccesses := by
    funext k
    rw [respond_stage]
    split
    · next here => rw [← here, absent]; rfl
    · rfl
  have flushes : (s.respond m ok d).flushAccesses = s.flushAccesses := rfl
  unfold State.memoryPort
  rw [masters, flushes]
  rfl

/-! ## The words of a read (R8, R17) -/

theorem throughData_getElem? {t : Slot} {o i : Nat} {be : List Enables} {e : Enables} {x : Lanes} (enables : be[i]? = some e)
    (lanes : t.acc[o + i]? = some x) : (t.throughData o be)[i]? = some (maskWord e (flushedWord x)) := by
  have within : i < be.length := (List.getElem?_eq_some_iff.mp enables).1
  unfold Slot.throughData
  rw [List.getElem?_zipWith, enables, List.getElem?_map, List.getElem?_take_of_lt within, List.getElem?_drop, lanes]
  rfl

/-- The bytes of a word put together from four. -/
theorem append_bytes (b3 b2 b1 b0 : Byte) :
    let w : Word := b3 ++ b2 ++ b1 ++ b0
    w.extractLsb' 0 8 = b0 ∧ w.extractLsb' 8 8 = b1 ∧ w.extractLsb' 16 8 = b2 ∧ w.extractLsb' 24 8 = b3 := by
  refine ⟨?_, ?_, ?_, ?_⟩ <;> ext i hi <;> rw [BitVec.getElem_extractLsb', BitVec.getLsbD_append]
  · rw [if_pos (by omega), Nat.zero_add, BitVec.getLsbD_eq_getElem hi]
  · rw [if_neg (by omega), BitVec.getLsbD_append, if_pos (by omega), Nat.add_sub_cancel_left, BitVec.getLsbD_eq_getElem hi]
  · rw [if_neg (by omega), BitVec.getLsbD_append, if_neg (by omega), BitVec.getLsbD_append, if_pos (by omega),
      show 16 + i - 8 - 8 = i by omega, BitVec.getLsbD_eq_getElem hi]
  · rw [if_neg (by omega), BitVec.getLsbD_append, if_neg (by omega), BitVec.getLsbD_append, if_neg (by omega),
      show 24 + i - 8 - 8 - 8 = i by omega, BitVec.getLsbD_eq_getElem hi]

/-- A masked word byte by byte (R17). -/
theorem maskWord_byte (be : Enables) (w : Word) {j : Nat} (hj : j < 4) : (maskWord be w).extractLsb' (8 * j) 8 =
    if be.getLsbD j then w.extractLsb' (8 * j) 8 else 0 := by
  obtain ⟨byte0, byte1, byte2, byte3⟩ := append_bytes (if be.getLsbD 3 then w.extractLsb' 24 8 else 0)
    (if be.getLsbD 2 then w.extractLsb' 16 8 else 0) (if be.getLsbD 1 then w.extractLsb' 8 8 else 0)
    (if be.getLsbD 0 then w.extractLsb' 0 8 else 0)
  interval_cases j
  · exact byte0
  · exact byte1
  · exact byte2
  · exact byte3

/-- Settles O38: the response comes from the accumulators, and the read was not at the memory port. -/
theorem throughReadServed : Obligations.ThroughReadServed := by
  intro s m a hit n turn role read held through acc
  have served : s.popDue.treatUplinkRead m a hit = s.popDue.respond m true ((s.slots.get n).throughData hit.offset a.be) :=
    treatUplinkRead_through (s := s.popDue) held through
  have taking : nextTaking m (s.ports.get m).queue = if (s.ports.get m).queue.tail = [] then [] else [.take m] :=
    if_congr List.isEmpty_iff rfl rfl
  have absent : (s.popDue.stage m).portAccesses = [] := by
    rw [show s.popDue.stage m = .taken (.window hit) from turn.2.2]
    rfl
  refine ⟨_, s.popDue.respond m true ((s.slots.get n).throughData hit.offset a.be), ?_, rfl, ?_, rfl, fun k => ?_, ?_,
    fun i be x enables lanes => throughData_getElem? enables lanes, fun w be j hj => maskWord_byte be w hj⟩
  · rw [exec_uplinkRead turn role read, served]
  · rw [← taking]
    rfl
  · exact (setAt_get _ _ _ _).trans (if_congr eq_comm rfl rfl)
  · exact (respond_memoryPort true _ absent).trans rfl

end Sys2Proof.Machine
end

section
/-! Stalling, exclusion and departure of a segment (R100, R102, R104, R64). -/

namespace Sys2Proof.Machine

/-! ## Stalling (R99, R100, R104) -/

/-- With no notice waiting, that of a segment that leaves ACTIVE is the only one. -/
theorem noticeDeparture_of_active {s : State} {was : SegState} (g : Fin 12) (empty : s.departures = []) (active : was = .active) :
    s.noticeDeparture g was = { s with departures := [g] } := by
  unfold State.noticeDeparture
  rw [if_pos active, empty]
  rfl

theorem setSegment_raiseEvent_departures {s : State} (g : Fin 12) (e : SegmentEntry) (k : EventKind) (object : Nat)
    (empty : s.departures = []) : ((s.setSegment g e).raiseEvent k object 0 0).departures = [] :=
  (raiseEvent_quiet _ _ _ _ _).departures.trans empty

theorem stall_of_active {s : State} {g : Fin 12} (empty : s.departures = []) (active : (s.segments.get g).state = .active) :
    let u : State := (s.setSegment g { s.segments.get g with state := .stalled, timer := none }).raiseEvent .segmentStalled
      (g.val + 1) 0 0
    s.stall g = ({ u with departures := [g] } : State).list (.segment g) :=
  congrArg (State.list · (.segment g))
    (noticeDeparture_of_active g (setSegment_raiseEvent_departures g _ .segmentStalled _ empty) active)

theorem exec_activityTimerExpiry {s : State} {g : Fin 12} {d : Nat} (rest : s.AtRest)
    (active : (s.segments.get g).state = .active) (timer : (s.segments.get g).timer = some d) (past : d ≤ s.timebase) :
    exec (.activityTimerExpiry g) s = .next (s.stall g).settle := by
  have expired : s.stallDue g = true := by
    unfold State.stallDue
    simp [active, timer, past]
  show done (if s.catchUp.stallDue g then s.catchUp.stall g else s.catchUp) = _
  rw [catchUp_rest s rest, if_pos expired]
  rfl

/-! ## Hand-overs (R102) -/

theorem exclude_of_active {s : State} {g : Fin 12} (empty : s.departures = []) (active : (s.segments.get g).state = .active) :
    let u : State := (s.setSegment g { s.segments.get g with state := .excluded, timer := none }).raiseEvent .segmentExcluded
      (g.val + 1) 0 0
    s.exclude g = ({ u with departures := [g] } : State).list (.segment g) :=
  congrArg (State.list · (.segment g))
    (noticeDeparture_of_active g (setSegment_raiseEvent_departures g _ .segmentExcluded _ empty) active)

theorem exclude_of_stalled {s : State} {g : Fin 12} (stalled : (s.segments.get g).state = .stalled) :
    s.exclude g = ((s.setSegment g { s.segments.get g with state := .excluded, timer := none }).raiseEvent .segmentExcluded
      (g.val + 1) 0 0).list (.segment g) := by
  have inactive : (s.segments.get g).state ≠ .active := by simp [stalled]
  exact congrArg (State.list · (.segment g)) (if_neg inactive)

/-- A part at rest judges at once a hand-over that is there. -/
theorem exec_segmentExclusionHandover {s u : State} {g : Fin 12} (rest : s.AtRest) (given : g ∈ s.handovers)
    (judged : ({ s with handovers := s.handovers.erase g } : State).judgeHandover g = u) :
    exec (.segmentExclusionHandover g) s = .next u.settle := by
  show done (s.catchUp.takeHandover g) = _
  rw [catchUp_rest s rest, ← judged]
  exact congrArg done (if_pos (List.elem_eq_true_of_mem given))

theorem limitReached_iff (s : State) (g : Fin 12) : s.limitReached g = true ↔
    s.request.missLimit ≠ 0 ∧ s.request.missLimit ≤ (s.segments.get g).consecutive := by
  simp [State.limitReached]

theorem judgeHandover_excludes {s : State} {g : Fin 12}
    (member : (s.segments.get g).state = .active ∨ (s.segments.get g).state = .stalled) (reached : s.limitReached g = true) :
    s.judgeHandover g = s.exclude g := by
  unfold State.judgeHandover
  rcases member with member | member <;> rw [member] <;> exact if_pos reached

theorem judgeHandover_leaves {s : State} {g : Fin 12} (out : (s.segments.get g).state = .offline ∨
    (s.segments.get g).state = .excluded ∨ s.limitReached g = false) : s.judgeHandover g = s := by
  unfold State.judgeHandover
  rcases out with offline | excluded | below
  · rw [offline]
  · rw [excluded]
  · split
    · rfl
    · exact if_neg (Bool.eq_false_iff.mp below)
    · exact if_neg (Bool.eq_false_iff.mp below)
    · rfl

/-! ## Departure notices taken (R104, R64) -/

/-- The notices up to the first of the segment are taken, in the order given (log 44). -/
theorem exec_departureNotice {s : State} {g : Fin 12} {before after : List (Fin 12)}
    (given : s.departures = before ++ g :: after) (first : g ∉ before) :
    exec (.departureNotice g) s = .next (State.settle ((before ++ [g]).foldl State.takeDeparture s)) := by
  have here : g ∈ s.departures := by simp [given]
  have earlier : s.departures.takeWhile (fun x => x != g) = before := by
    rw [given, List.takeWhile_append_of_pos fun x hx => bne_iff_ne.mpr fun same => first (by rwa [← same])]
    simp
  have taken : (s.takeDepartures before).takeDeparture g = (before ++ [g]).foldl State.takeDeparture s := by
    rw [List.foldl_append]
    rfl
  rw [← taken, ← earlier]
  exact congrArg done (if_pos (List.elem_eq_true_of_mem here))

theorem takeDeparture_of_mem {s : State} {g : Fin 12} (given : g ∈ s.departures) :
    s.takeDeparture g = ({ s with departures := s.departures.erase g } : State).depart g :=
  if_pos (List.elem_eq_true_of_mem given)

theorem leaveSlot_listed_iff (g : Fin 12) (s : State) (n : Fin 16) (id : RecordId) :
    (State.leaveSlot g s n).listed id = true ↔ s.listed id = true ∨ id = .slot n :=
  State.list_listed_iff (s.setSlot n ((s.slots.get n).leave g)) (.slot n) id

theorem leaveSlots_listed (g : Fin 12) (id : RecordId) (l : List (Fin 16)) : ∀ s : State,
    (s.listed id = true ∨ ∃ n ∈ l, id = .slot n) → (l.foldl (State.leaveSlot g) s).listed id = true := by
  induction l with
  | nil => exact fun s h => h.elim (fun h => h) fun ⟨_, within, _⟩ => absurd within List.not_mem_nil
  | cons n l ih =>
    intro s h
    refine ih (State.leaveSlot g s n) ?_
    rcases h with listed | ⟨k, left, same⟩
    · exact .inl ((leaveSlot_listed_iff g s n id).mpr (.inl listed))
    · rcases List.mem_cons.mp left with rfl | later
      · exact .inl ((leaveSlot_listed_iff g s k id).mpr (.inr same))
      · exact .inr ⟨k, later, same⟩

theorem slotsLeft_ascending (s : State) (g : Fin 12) : (s.slotsLeft g).Pairwise (· < ·) :=
  (List.pairwise_lt_finRange 16).filter _

theorem giveNotices_of_given {s : State} (given : s.departures ≠ []) :
    s.giveNotices = State.settle (s.departures.foldl State.takeDeparture s) := by
  unfold State.giveNotices
  split
  · next none => exact absurd none given
  · rfl

/-- Settles O55: a transition from ACTIVE leaves one notice, and a notice taken walks the slots that the segment leaves. -/
theorem segmentsSupervised : Obligations.SegmentsSupervised := by
  refine ⟨fun s g rest => ⟨fun t active timer past => ?_, fun given => ⟨fun out => ?_, fun active reached => ?_,
    fun stalled reached => ?_⟩⟩, fun s g before after => exec_departureNotice, fun s g given => ?_,
    fun s given => ⟨giveNotices_of_given given, giveNotices_departures s⟩⟩
  · exact (exec_activityTimerExpiry rest active timer past).trans (congrArg done (stall_of_active rest.2 active))
  · refine exec_segmentExclusionHandover rest given (judgeHandover_leaves (out.imp_right (Or.imp_right fun below => ?_)))
    exact Bool.eq_false_iff.mpr fun reached => below ((limitReached_iff _ g).mp reached)
  · let s1 : State := { s with handovers := s.handovers.erase g }
    have judged : s1.judgeHandover g = s1.exclude g := judgeHandover_excludes (.inl active) ((limitReached_iff s1 g).mpr reached)
    exact exec_segmentExclusionHandover rest given (judged.trans (exclude_of_active rest.2 active))
  · let s1 : State := { s with handovers := s.handovers.erase g }
    have judged : s1.judgeHandover g = s1.exclude g := judgeHandover_excludes (.inr stalled) ((limitReached_iff s1 g).mpr reached)
    exact exec_segmentExclusionHandover rest given (judged.trans (exclude_of_stalled stalled))
  · let s0 : State := { s with departures := s.departures.erase g }
    refine ⟨(s0.slotsLeft g).foldl (State.leaveSlot g) s0, s0.slotsLeft g, takeDeparture_of_mem given,
      leaveSlots_frame g _ s0, slotsLeft_ascending s0 g, mem_slotsLeft s0 g, fun n => ⟨fun leaves => ?_, fun stays => ?_⟩⟩
    · have left : n ∈ s0.slotsLeft g := (mem_slotsLeft s0 g n).mpr leaves
      exact ⟨leaveSlots_listed g _ _ s0 (.inr ⟨n, left, rfl⟩), (leaveSlots_slot g n _ s0).trans (if_pos left)⟩
    · exact (leaveSlots_slot g n _ s0).trans (if_neg fun left => stays ((mem_slotsLeft s0 g n).mp left))

end Sys2Proof.Machine
end

section
/-! What a slot's becoming FLUSHING records, and its miss accounting (R69, R70). -/

namespace Sys2Proof.Machine

/-! ## Counters and saturations -/

theorem bump_lt_iff (c : Nat) : c < bump c ↔ c < 65535 := by
  show c < min (c + 1) 65535 ↔ _
  omega

theorem bump_of_top_le {c : Nat} (top : 65535 ≤ c) : bump c = 65535 := by
  show min (c + 1) 65535 = 65535
  omega

theorem lanesSaturated_eq (x : Lanes) :
    lanesSaturated x = (if clampLane x.lo = x.lo then 0 else 1) + (if clampLane x.hi = x.hi then 0 else 1) := by
  have count (y : Int) : (if saturates y = true then 1 else 0) = if clampLane y = y then 0 else 1 :=
    (if_congr (saturates_iff y) rfl rfl).trans (ite_not _ _ _)
  exact congrArg₂ (· + ·) (count x.lo) (count x.hi)

theorem saturationCount_eq (acc : List Lanes) : saturationCount acc =
    (acc.map fun x => (if clampLane x.lo = x.lo then 0 else 1) + (if clampLane x.hi = x.hi then 0 else 1)).sum :=
  congrArg (fun f => (acc.map f).sum) (funext lanesSaturated_eq)

/-! ## Listing and events (R159, R171 to R173) -/

theorem State.listIf_listed_iff (s : State) (b : Bool) (id x : RecordId) :
    (s.listIf b id).listed x = true ↔ s.listed x = true ∨ (b = true ∧ x = id) := by
  cases b with
  | false => exact ⟨.inl, fun h => h.elim (fun h => h) fun h => Bool.noConfusion h.1⟩
  | true => exact (s.list_listed_iff id x).trans (or_congr_right (and_iff_right rfl).symm)

section
variable (s : State) (k : EventKind) (object : Nat) (tag : Byte) (reason : Nat)

/-- What an event leaves, read at any field: it is disabled, accepted or dropped. -/
theorem raiseEvent_apply {α : Type} (f : State → α) : f (s.raiseEvent k object tag reason) =
    if s.eventEnabled k = true then
      if s.ringCount + s.events.length < 64 then
        f { s with events := s.events ++ [{ kind := k, object := object, tag := tag, reason := reason, tick := s.now }] }
      else f s.loseEvent
    else f s := by
  rw [← apply_ite f, ← apply_ite f]
  rfl

theorem raiseEvent_events : (s.raiseEvent k object tag reason).events =
    if s.eventEnabled k = true ∧ s.ringCount + s.events.length < 64 then
      s.events ++ [{ kind := k, object := object, tag := tag, reason := reason, tick := s.now }]
    else s.events := by
  have dropped : s.loseEvent.events = s.events := by simp [State.loseEvent]
  rw [raiseEvent_apply s k object tag reason State.events, ite_and, dropped]

theorem raiseEvent_lostEvents : (s.raiseEvent k object tag reason).lostEvents =
    if s.eventEnabled k = true then
      if s.ringCount + s.events.length < 64 then s.lostEvents else bump s.lostEvents
    else s.lostEvents := by
  have dropped : s.loseEvent.lostEvents = bump s.lostEvents := by simp [State.loseEvent]
  rw [raiseEvent_apply s k object tag reason State.lostEvents, dropped]

/-- An event lists the status block where it raises the count of lost ones, and nothing else. -/
theorem raiseEvent_listed_iff (id : RecordId) : (s.raiseEvent k object tag reason).listed id = true ↔
    s.listed id = true ∨ (s.lostEvents < (s.raiseEvent k object tag reason).lostEvents ∧ id = .status) := by
  have dropped : s.loseEvent.listed id = true ↔ s.listed id = true ∨ (s.lostEvents < bump s.lostEvents ∧ id = .status) := by
    rw [bump_lt_iff]
    exact (State.listIf_listed_iff _ _ _ id).trans (or_congr_right (and_congr_left' decide_eq_true_iff))
  rw [raiseEvent_apply s k object tag reason (State.listed · id), raiseEvent_lostEvents]
  split
  · split
    · exact (or_iff_left fun h => absurd h.1 (Nat.lt_irrefl _)).symm
    · exact dropped
  · exact (or_iff_left fun h => absurd h.1 (Nat.lt_irrefl _)).symm

end

/-! ## The misses of one segment (R70) -/

/-- The miss counters of a segment as the slot accounts for it. -/
def Slot.charge (t : Slot) (g : Fin 12) (e : SegmentEntry) : SegmentEntry :=
  if (t.contribs.get g).state = .done then { e with consecutive := 0 }
  else { e with consecutive := bump e.consecutive, total := bump e.total }

section
variable (t : Slot) (s : State) (g : Fin 12)

theorem accountSegment_frame : State.accountSegment t s g =
    { s with
      segments := (State.accountSegment t s g).segments
      handovers := (State.accountSegment t s g).handovers
      writeBackList := (State.accountSegment t s g).writeBackList } := by
  unfold State.accountSegment State.listIf
  dsimp only
  repeat' split
  all_goals rfl

theorem accountSegment_segments (x : Fin 12) : (State.accountSegment t s g).segments.get x =
    if g = x then t.charge g (s.segments.get g) else s.segments.get x := by
  have charged : (State.accountSegment t s g).segments = setAt s.segments g (t.charge g (s.segments.get g)) := by
    unfold State.accountSegment Slot.charge
    dsimp only
    split
    · simp
    · split <;> simp
  rw [charged, setAt_get]

theorem mem_accountSegment_handovers (x : Fin 12) : x ∈ (State.accountSegment t s g).handovers ↔ x ∈ s.handovers ∨
    (x = g ∧ (t.contribs.get g).state ≠ .done ∧ (s.segments.get g).consecutive < 65535) := by
  unfold State.accountSegment
  dsimp only
  split
  · next done => simp [done]
  · next missed =>
    split
    · next rises => simp [missed, show _ < 65535 from rises]
    · next top => simp [show ¬_ < 65535 from top]

/-- A segment entry is listed where one of its counters can change. -/
theorem accountSegment_listed_iff (id : RecordId) : (State.accountSegment t s g).listed id = true ↔ s.listed id = true ∨
    ((if (t.contribs.get g).state = .done then (s.segments.get g).consecutive ≠ 0
      else (s.segments.get g).consecutive < 65535 ∨ (s.segments.get g).total < 65535) ∧ id = .segment g) := by
  unfold State.accountSegment
  dsimp only
  split
  · exact (State.listIf_listed_iff _ _ _ id).trans (or_congr_right (and_congr_left' bne_iff_ne))
  · have listed (u : State) (c d : Nat) :
        (u.listIf (c < Config.counterTop || d < Config.counterTop) (.segment g)).listed id = true ↔
          u.listed id = true ∨ ((c < 65535 ∨ d < 65535) ∧ id = .segment g) := by
      rw [State.listIf_listed_iff, Bool.or_eq_true, decide_eq_true_iff, decide_eq_true_iff]
      rfl
    split
    · exact listed _ _ _
    · exact listed _ _ _

/-- A segment whose counters change is listed, while they are within their bound. -/
theorem accountSegment_lists (consecutive : (s.segments.get g).consecutive ≤ 65535) (total : (s.segments.get g).total ≤ 65535)
    (changed : t.charge g (s.segments.get g) ≠ s.segments.get g) :
    (State.accountSegment t s g).listed (.segment g) = true := by
  refine (accountSegment_listed_iff t s g _).mpr (.inr ⟨?_, rfl⟩)
  unfold Slot.charge at changed
  generalize s.segments.get g = e at *
  split at changed
  · next done =>
    rw [if_pos done]
    intro zero
    exact changed (by rw [← zero])
  · next missed =>
    rw [if_neg missed]
    by_contra full
    have bumped : bump e.consecutive = e.consecutive ∧ bump e.total = e.total :=
      ⟨(bump_of_top_le (by omega)).trans (by omega), (bump_of_top_le (by omega)).trans (by omega)⟩
    exact changed (by rw [bumped.1, bumped.2])

end

/-! ## The misses of an expected set (R70) -/

section
variable (t : Slot) (l : List (Fin 12))

theorem accountSegments_frame : ∀ s : State, l.foldl (State.accountSegment t) s =
    { s with
      segments := (l.foldl (State.accountSegment t) s).segments
      handovers := (l.foldl (State.accountSegment t) s).handovers
      writeBackList := (l.foldl (State.accountSegment t) s).writeBackList } := by
  induction l with
  | nil => exact fun _ => rfl
  | cons g l ih =>
    intro s
    rw [List.foldl_cons, ih, accountSegment_frame]

theorem accountSegments_segments (g : Fin 12) : ∀ s : State, (l.foldl (State.accountSegment t) s).segments.get g =
    (t.charge g)^[l.count g] (s.segments.get g) := by
  induction l with
  | nil => exact fun _ => rfl
  | cons x l ih =>
    intro s
    rw [List.foldl_cons, ih, accountSegment_segments, List.count_cons]
    by_cases here : x = g
    · subst here
      rw [if_pos rfl, if_pos (beq_self_eq_true x), Function.iterate_succ_apply]
    · rw [if_neg here, if_neg fun same => here (beq_iff_eq.mp same), Nat.add_zero]

theorem accountSegments_listed (id : RecordId) : ∀ s : State, s.listed id = true →
    (l.foldl (State.accountSegment t) s).listed id = true := by
  induction l with
  | nil => exact fun _ h => h
  | cons g l ih => exact fun s listed => ih _ ((accountSegment_listed_iff t s g id).mpr (.inl listed))

/-- A segment that missed is handed over unless its consecutive misses stand at the top. -/
theorem mem_accountSegments_handovers (g : Fin 12) : ∀ s : State, g ∈ (l.foldl (State.accountSegment t) s).handovers ↔
    g ∈ s.handovers ∨ ((g ∈ l ∧ (t.contribs.get g).state ≠ .done) ∧ (s.segments.get g).consecutive < 65535) := by
  induction l with
  | nil => simp
  | cons x l ih =>
    intro s
    rw [List.foldl_cons, ih, mem_accountSegment_handovers, accountSegment_segments, List.mem_cons]
    by_cases here : x = g
    · subst here
      rw [if_pos rfl]
      unfold Slot.charge
      by_cases done : (t.contribs.get x).state = .done
      · simp [done]
      · have top (c : Nat) : bump c < 65535 → c < 65535 := by
          show min (c + 1) 65535 < _ → _
          omega
        simp only [ne_eq, done, not_false_eq_true]
        have := top (s.segments.get x).consecutive
        tauto
    · have other : ¬g = x := fun same => here same.symm
      simp [here, other]

theorem accountSegments_lists (g : Fin 12) : ∀ s : State, (s.segments.get g).consecutive ≤ 65535 →
    (s.segments.get g).total ≤ 65535 → (l.foldl (State.accountSegment t) s).segments.get g ≠ s.segments.get g →
    (l.foldl (State.accountSegment t) s).listed (.segment g) = true := by
  induction l with
  | nil => exact fun _ _ _ changed => absurd rfl changed
  | cons x l ih =>
    intro s consecutive total changed
    have first := accountSegment_segments t s x g
    by_cases same : (State.accountSegment t s x).segments.get g = s.segments.get g
    · exact ih _ (by rwa [same]) (by rwa [same]) (by rwa [same])
    · rw [first] at same
      split at same
      · next here =>
        subst here
        exact accountSegments_listed t l _ _ (accountSegment_lists t s x consecutive total same)
      · exact absurd rfl same

end

/-- A DONE contribution clears the consecutive misses, however often it is accounted for. -/
theorem Slot.charge_iterate_done {t : Slot} {g : Fin 12} (done : (t.contribs.get g).state = .done) (e : SegmentEntry) (n : Nat) :
    (t.charge g)^[n + 1] e = { e with consecutive := 0 } := by
  have charged (x : SegmentEntry) : t.charge g x = { x with consecutive := 0 } := if_pos done
  rw [Function.iterate_succ_apply, charged]
  exact Function.iterate_fixed (charged _) n

theorem accountMisses_frame (s : State) (t : Slot) (o : SlotOutcome) : s.accountMisses t o =
    { s with
      segments := (s.accountMisses t o).segments
      handovers := (s.accountMisses t o).handovers
      writeBackList := (s.accountMisses t o).writeBackList } := by
  unfold State.accountMisses
  split
  · rfl
  · exact accountSegments_frame t t.expected s

theorem accountMisses_listed {s : State} (t : Slot) (o : SlotOutcome) {id : RecordId} (listed : s.listed id = true) :
    (s.accountMisses t o).listed id = true := by
  unfold State.accountMisses
  split
  · exact listed
  · exact accountSegments_listed t t.expected id s listed

theorem accountMisses_lists {s : State} (t : Slot) (o : SlotOutcome) (g : Fin 12)
    (consecutive : (s.segments.get g).consecutive ≤ 65535) (total : (s.segments.get g).total ≤ 65535)
    (changed : (s.accountMisses t o).segments.get g ≠ s.segments.get g) :
    (s.accountMisses t o).listed (.segment g) = true := by
  unfold State.accountMisses at changed ⊢
  split
  · next retired =>
    rw [if_pos retired] at changed
    exact absurd rfl changed
  · next charged =>
    rw [if_neg charged] at changed
    exact accountSegments_lists t t.expected g s consecutive total changed

/-! ## A slot becomes FLUSHING (R69) -/

/-- The slot's record and the frame counter of its service, as the slot becomes FLUSHING (R69 steps 1 to 3). -/
def State.countFlushing (s : State) (n : Fin 16) (o : SlotOutcome) : State :=
  let t := s.slots.get n
  ((s.setSlot n { t with state := .flushing, outcome := o, satCount := saturationCount t.acc, timer := none }).list
    (.slot n)).countFrame t.service o

/-- What the slot records before its misses are accounted for: the event of a SHORT one as well (R69 step 4). -/
def State.recordFlushing (s : State) (n : Fin 16) (o : SlotOutcome) : State :=
  if o = .complete then s.countFlushing n o else (s.countFlushing n o).raiseEvent .slotShort n.val 0 o.shortReason

theorem recordFlushing_of_complete {s : State} {n : Fin 16} {o : SlotOutcome} (complete : o = .complete) :
    s.recordFlushing n o = s.countFlushing n o := if_pos complete

theorem recordFlushing_of_short {s : State} {n : Fin 16} {o : SlotOutcome} (short : o ≠ .complete) :
    s.recordFlushing n o = (s.countFlushing n o).raiseEvent .slotShort n.val 0 o.shortReason := if_neg short

theorem SlotOutcome.isShort_of_ne {o : SlotOutcome} (set : o ≠ .none) (short : o ≠ .complete) : o.isShort = true := by
  cases o with
  | none => exact absurd rfl set
  | complete => exact absurd rfl short
  | deadline => rfl
  | evicted => rfl
  | retired => rfl

section
variable (s : State) (n : Fin 16) {o : SlotOutcome}

theorem enterFlushing_eq (set : o ≠ .none) :
    s.enterFlushing n o = (s.recordFlushing n o).accountMisses (s.slots.get n) o := by
  by_cases complete : o = .complete
  · rw [recordFlushing_of_complete complete]
    subst complete
    rfl
  · rw [recordFlushing_of_short complete]
    exact congrArg (State.accountMisses · (s.slots.get n) o) (if_pos (SlotOutcome.isShort_of_ne set complete))

theorem countFrame_frame (v : Fin 8) (o : SlotOutcome) :
    let e := s.services.get v
    ∃ l, s.countFrame v o = { s with
      services := setAt s.services v
        (if o = .complete then { e with complete := bump e.complete } else { e with short := bump e.short })
      writeBackList := l } := ⟨_, rfl⟩

theorem countFlushing_frame (o : SlotOutcome) :
    let t := s.slots.get n
    let v := s.services.get t.service
    ∃ l, s.countFlushing n o = { s with
      slots := setAt s.slots n { t with state := .flushing, outcome := o, satCount := saturationCount t.acc, timer := none }
      services := setAt s.services t.service
        (if o = .complete then { v with complete := bump v.complete } else { v with short := bump v.short })
      writeBackList := l } := by
  obtain ⟨_, frame⟩ := countFrame_frame ((s.setSlot n { s.slots.get n with
    state := .flushing, outcome := o, satCount := saturationCount (s.slots.get n).acc, timer := none }).list (.slot n))
    (s.slots.get n).service o
  exact ⟨_, frame⟩

theorem recordFlushing_frame (o : SlotOutcome) :
    let t := s.slots.get n
    let v := s.services.get t.service
    ∃ events lost l, s.recordFlushing n o = { s with
      slots := setAt s.slots n { t with state := .flushing, outcome := o, satCount := saturationCount t.acc, timer := none }
      services := setAt s.services t.service
        (if o = .complete then { v with complete := bump v.complete } else { v with short := bump v.short })
      events := events
      lostEvents := lost
      writeBackList := l } := by
  obtain ⟨l, counted⟩ := countFlushing_frame s n o
  obtain ⟨events, lost, l', raised⟩ := raiseEvent_frame (s.countFlushing n o) .slotShort n.val 0 o.shortReason
  by_cases complete : o = .complete
  · exact ⟨_, _, _, (recordFlushing_of_complete complete).trans counted⟩
  · rw [recordFlushing_of_short complete, raised, counted]
    exact ⟨_, _, _, rfl⟩

theorem recordFlushing_segments (o : SlotOutcome) : (s.recordFlushing n o).segments = s.segments := by
  obtain ⟨_, _, _, frame⟩ := recordFlushing_frame s n o
  rw [frame]

theorem recordFlushing_handovers (o : SlotOutcome) : (s.recordFlushing n o).handovers = s.handovers := by
  obtain ⟨_, _, _, frame⟩ := recordFlushing_frame s n o
  rw [frame]

/-- An event finds what it reads as it stood before the slot's record. -/
theorem countFlushing_eventView (o : SlotOutcome) :
    (∀ k, (s.countFlushing n o).eventEnabled k = s.eventEnabled k) ∧ (s.countFlushing n o).ringCount = s.ringCount ∧
      (s.countFlushing n o).events = s.events ∧ (s.countFlushing n o).now = s.now ∧
      (s.countFlushing n o).lostEvents = s.lostEvents := by
  obtain ⟨_, frame⟩ := countFlushing_frame s n o
  rw [frame]
  exact ⟨fun _ => rfl, rfl, rfl, rfl, rfl⟩

theorem recordFlushing_events (o : SlotOutcome) : (s.recordFlushing n o).events =
    (if o = .complete then s else s.raiseEvent .slotShort n.val 0 o.shortReason).events := by
  obtain ⟨enabled, ring, events, now, _⟩ := countFlushing_eventView s n o
  unfold State.recordFlushing
  split
  · exact events
  · simp only [raiseEvent_events, enabled, ring, events, now]

theorem recordFlushing_lostEvents (o : SlotOutcome) : (s.recordFlushing n o).lostEvents =
    (if o = .complete then s else s.raiseEvent .slotShort n.val 0 o.shortReason).lostEvents := by
  obtain ⟨enabled, ring, events, _, lost⟩ := countFlushing_eventView s n o
  unfold State.recordFlushing
  split
  · exact lost
  · simp only [raiseEvent_lostEvents, enabled, ring, events, lost]

theorem countFlushing_listed_iff (o : SlotOutcome) (id : RecordId) : (s.countFlushing n o).listed id = true ↔
    (s.listed id = true ∨ id = .slot n) ∨ id = .service (s.slots.get n).service :=
  (State.list_listed_iff _ _ _).trans (or_congr_left (State.list_listed_iff (s.setSlot n _) (.slot n) id))

theorem recordFlushing_listed {id : RecordId} (o : SlotOutcome) (counted : (s.countFlushing n o).listed id = true) :
    (s.recordFlushing n o).listed id = true := by
  unfold State.recordFlushing
  split
  · exact counted
  · exact (raiseEvent_listed_iff _ _ _ _ _ id).mpr (.inl counted)

theorem recordFlushing_lists_status (o : SlotOutcome) (lost : s.lostEvents < (s.recordFlushing n o).lostEvents) :
    (s.recordFlushing n o).listed .status = true := by
  obtain ⟨_, _, _, _, before⟩ := countFlushing_eventView s n o
  rw [← before] at lost
  by_cases complete : o = .complete
  · rw [recordFlushing_of_complete complete] at lost
    exact absurd lost (Nat.lt_irrefl _)
  · rw [recordFlushing_of_short complete] at lost ⊢
    exact (raiseEvent_listed_iff _ _ _ _ _ .status).mpr (.inr ⟨lost, rfl⟩)

theorem enterFlushing_frame (set : o ≠ .none) :
    let t := s.slots.get n
    let v := s.services.get t.service
    let u := s.enterFlushing n o
    u = { s with
      slots := setAt s.slots n { t with state := .flushing, outcome := o, satCount := saturationCount t.acc, timer := none }
      services := setAt s.services t.service
        (if o = .complete then { v with complete := bump v.complete } else { v with short := bump v.short })
      segments := u.segments, handovers := u.handovers, events := u.events, lostEvents := u.lostEvents,
      writeBackList := u.writeBackList } := by
  obtain ⟨_, _, _, frame⟩ := recordFlushing_frame s n o
  dsimp only
  rw [enterFlushing_eq s n set, accountMisses_frame, frame]

end

/-- Settles O35: the slot's own record first, then the misses of its expected segments one by one. -/
theorem slotEntersFlushing : Obligations.SlotEntersFlushing := by
  intro s n outcome set t v reason missed raised u
  have accounted : u = (s.recordFlushing n outcome).accountMisses t outcome := enterFlushing_eq s n set
  have frame := accountMisses_frame (s.recordFlushing n outcome) t outcome
  have named : reason = outcome.shortReason := by
    cases outcome <;> rfl
  have raised_eq : raised = if outcome = .complete then s else s.raiseEvent .slotShort n.val 0 outcome.shortReason := by
    rw [← named]
  have events : u.events = raised.events := by
    rw [accounted, raised_eq, ← recordFlushing_events]
    exact (congrArg State.events frame).trans rfl
  have lostEvents : u.lostEvents = (s.recordFlushing n outcome).lostEvents := by
    rw [accounted]
    exact (congrArg State.lostEvents frame).trans rfl
  have listed {id : RecordId} (recorded : (s.recordFlushing n outcome).listed id = true) : u.listed id = true := by
    rw [accounted]
    exact accountMisses_listed t outcome recorded
  have counted (id : RecordId) := countFlushing_listed_iff s n outcome id
  have segments : (s.recordFlushing n outcome).segments = s.segments := recordFlushing_segments s n outcome
  have handovers : (s.recordFlushing n outcome).handovers = s.handovers := recordFlushing_handovers s n outcome
  refine ⟨?_, listed (recordFlushing_listed s n outcome ((counted _).mpr (.inl (.inr rfl)))),
    listed (recordFlushing_listed s n outcome ((counted _).mpr (.inr rfl))), fun g consecutive total changed => ?_, events,
    lostEvents.trans (by rw [raised_eq, recordFlushing_lostEvents]), fun lost => ?_, fun short enabled room => ?_,
    fun retired => ?_, fun charged g => ?_⟩
  · rw [← saturationCount_eq]
    exact enterFlushing_frame s n set
  · rw [accounted] at changed ⊢
    rw [← segments] at consecutive total changed
    exact accountMisses_lists t outcome g consecutive total changed
  · rw [lostEvents] at lost
    exact listed (recordFlushing_lists_status s n outcome lost)
  · rw [events, raised_eq, if_neg short, raiseEvent_events, if_pos ⟨enabled, room⟩, named]
  · have same : u = s.recordFlushing n outcome := accounted.trans (if_pos retired)
    rw [same]
    exact ⟨segments, handovers⟩
  · have charges : u = t.expected.foldl (State.accountSegment t) (s.recordFlushing n outcome) :=
      accounted.trans (if_neg charged)
    have segment : u.segments.get g = (t.charge g)^[t.expected.count g] (s.segments.get g) := by
      rw [charges, accountSegments_segments, segments]
    refine ⟨fun absent => ?_, fun expected done => ?_, fun miss once => ?_, ?_⟩
    · rw [segment, List.count_eq_zero.mpr absent]
      rfl
    · obtain ⟨k, count⟩ := Nat.exists_eq_succ_of_ne_zero (List.count_pos_iff.mpr expected).ne'
      rw [segment, count]
      exact Slot.charge_iterate_done (not_not.mp fun undone => done ⟨expected, undone⟩) _ k
    · rw [segment, once]
      exact if_neg miss.2
    · rw [charges, mem_accountSegments_handovers, segments, handovers]

end Sys2Proof.Machine
end

section
/-! A segment entry takes a write's bytes and its enable acts (R95, R97, R98, R104, R158). -/

namespace Sys2Proof.Machine

/-! ## A segment entry's copy -/

@[simp] theorem listDirty_segments (u : State) (id : RecordId) (l : List Nat) : (u.listDirty id l).segments = u.segments := by
  unfold State.listDirty
  split <;> rfl

/-- The state after a segment's copy has taken a write's bytes, before the enable acts (R158, R159). -/
def State.segmentCopied (s : State) (bs : List WByte) (g : Fin 12) : State :=
  let raw := s.overlay bs (.segment g)
  let e := decodeSegment raw (s.segments.get g)
  (s.setSegment g e).listDirty (.segment g) (changedBytes segmentSpans raw (segmentByte e))

theorem segmentCopied_entry (s : State) (bs : List WByte) (g : Fin 12) :
    (s.segmentCopied bs g).segments.get g = decodeSegment (s.overlay bs (.segment g)) (s.segments.get g) := by
  simp [State.segmentCopied]

theorem segmentCopied_services (s : State) (bs : List WByte) (g : Fin 12) : (s.segmentCopied bs g).services = s.services :=
  listDirty_services _ _ _

theorem segmentCopied_timebase (s : State) (bs : List WByte) (g : Fin 12) : (s.segmentCopied bs g).timebase = s.timebase :=
  (listDirty_quiet _ _ _).timebase

theorem segmentCopied_departures (s : State) (bs : List WByte) (g : Fin 12) :
    (s.segmentCopied bs g).departures = s.departures :=
  (listDirty_quiet _ _ _).departures

/-- An enable byte of a record acts, and one that the part then does not hold as written is written back (R158, R159). -/
theorem listDirty_actEnable (u : State) (bs : List WByte) (id : RecordId) (on off : State → State) :
    (u.actEnable bs id on off).listDirty id ((u.actEnable bs id on off).dirtyAction bs id) =
      match carried bs (recordOffset id) with
      | none => u
      | some b =>
        let t := if b = 0 then off u else on u
        if b = recordByte t.view id 0 then t else t.listBytes id [0] := by
  rw [listDirty_dirtyAction]
  unfold State.actEnable
  cases carried bs (recordOffset id) <;> rfl

/-- The copy takes the values first, then the enable acts. -/
theorem takeSegment_eq (s : State) (bs : List WByte) (g : Fin 12) : s.takeSegment bs g =
    let u := (s.segmentCopied bs g).actEnable bs (.segment g) (fun s => s.enableSegment g) (fun s => s.disableSegment g)
    u.listDirty (.segment g) (u.dirtyAction bs (.segment g)) := by
  have bytes : recordByte (s.setSegment g (decodeSegment (s.overlay bs (.segment g)) (s.segments.get g))).view (.segment g) =
      segmentByte (decodeSegment (s.overlay bs (.segment g)) (s.segments.get g)) := by
    funext o
    simp only [recordByte, State.view, State.setSegment_segments, setAt_get, if_true]
  unfold State.takeSegment
  dsimp only
  rw [bytes, ← State.segmentCopied]

theorem takeSegment_uncarried {s : State} {bs : List WByte} {g : Fin 12} (h : carried bs (recordOffset (.segment g)) = none) :
    s.takeSegment bs g = s.segmentCopied bs g := by
  rw [takeSegment_eq]
  dsimp only
  rw [listDirty_actEnable, h]

/-- Where a write carries the enable, the part does what it asks and writes back an enable that it then holds otherwise
(R97, R98, R159). -/
theorem takeSegment_carried {s u : State} {bs : List WByte} {g : Fin 12} {b : Byte}
    (h : carried bs (recordOffset (.segment g)) = some b)
    (acts : (if b = 0 then (s.segmentCopied bs g).disableSegment g else (s.segmentCopied bs g).enableSegment g) = u) :
    s.takeSegment bs g = if b = flagByte (u.segments.get g).enable then u else u.listBytes (.segment g) [0] := by
  rw [takeSegment_eq, ← acts]
  dsimp only
  rw [listDirty_actEnable, h]
  rfl

/-! ## The enable acts (R97, R98) -/

theorem enableSegment_offline {s : State} {g : Fin 12} (offline : (s.segments.get g).state = .offline) :
    s.enableSegment g = (s.setSegment g
      { s.segments.get g with
        enable := true
        state := .active
        consecutive := 0
        gates := Vector.ofFn (fun v => { isOpen := true, hold := (s.services.get v).holdFrames })
        timer := s.stallTick (s.segments.get g) }).list (.segment g) := if_pos offline

theorem enableSegment_member {s : State} {g : Fin 12} (member : (s.segments.get g).state ≠ .offline) :
    s.enableSegment g = s := if_neg member

theorem disableSegment_offline {s : State} {g : Fin 12} (offline : (s.segments.get g).state = .offline) :
    s.disableSegment g = s := if_pos offline

/-- A segment that leaves ACTIVE gives its departure notice after those that wait (R98, R104). -/
theorem disableSegment_member {s : State} {g : Fin 12} (member : (s.segments.get g).state ≠ .offline) :
    let off : State := s.setSegment g { s.segments.get g with enable := false, state := .offline, timer := none }
    s.disableSegment g = ({ off with departures :=
      if (s.segments.get g).state = .active then s.departures ++ [g] else s.departures } : State).list (.segment g) := by
  intro off
  have notice : off.noticeDeparture g (s.segments.get g).state =
      { off with departures := if (s.segments.get g).state = .active then s.departures ++ [g] else s.departures } := by
    unfold State.noticeDeparture
    split <;> rfl
  rw [← notice]
  exact if_neg member

/-- Settles O51: the copy first, then the enable's act on an OFFLINE segment and on one that is not. -/
theorem segmentSwitched : Obligations.SegmentSwitched := by
  intro s bs g raw e s2 ends
  have copied : s.segmentCopied bs g = s2 := rfl
  have entry : s2.segments.get g = e := segmentCopied_entry s bs g
  have services : s2.services = s.services := segmentCopied_services s bs g
  have timebase : s2.timebase = s.timebase := segmentCopied_timebase s bs g
  have departures : s2.departures = s.departures := segmentCopied_departures s bs g
  refine ⟨takeSegment_uncarried, fun b h => ⟨fun on offline => ?_, fun on member => ?_, fun off offline => ?_, fun off member => ?_⟩, rfl⟩
  · have acts := enableSegment_offline ((congrArg SegmentEntry.state entry).trans offline)
    rw [State.stallTick, entry, services, timebase] at acts
    exact takeSegment_carried h ((if_neg on).trans acts)
  · exact takeSegment_carried h ((if_neg on).trans <| enableSegment_member (by rwa [copied, entry]))
  · exact takeSegment_carried h ((if_pos off).trans <| disableSegment_offline (by rwa [copied, entry]))
  · have acts := disableSegment_member (s := s2) (g := g) (by rwa [entry])
    rw [entry, departures] at acts
    exact takeSegment_carried h ((if_pos off).trans acts)

end Sys2Proof.Machine
end

section
/-! The operations that leave the zone records and the cue entries alone: all but those of the Break-In Controller, of Incident
Control's entry and exit, of a control-region write and of the resets. -/

namespace Sys2Proof.Machine

/-- The zone records and the cue entries stand as they did. -/
@[simp] abbrev State.LeavesCues (s t : State) : Prop := t.zones = s.zones ∧ t.cues = s.cues

theorem State.LeavesCues.refl (s : State) : s.LeavesCues s := ⟨rfl, rfl⟩

theorem State.LeavesCues.trans {s t u : State} (h : s.LeavesCues t) (k : t.LeavesCues u) : s.LeavesCues u :=
  ⟨k.1.trans h.1, k.2.trans h.2⟩

theorem leavesCues_foldl {α : Type} {f : State → α → State} (h : ∀ (s : State) x, s.LeavesCues (f s x)) (l : List α) :
    ∀ s : State, s.LeavesCues (l.foldl f s) := by
  induction l with
  | nil => exact State.LeavesCues.refl
  | cons x l ih => exact fun s => (h s x).trans (ih (f s x))

/-! ## Faults, events and the port -/

section
variable (s : State)

@[simp] theorem raiseEvent_leavesCues (k : EventKind) (o : Nat) (t : Byte) (r : Nat) : s.LeavesCues (s.raiseEvent k o t r) := by
  obtain ⟨_, _, _, frame⟩ := raiseEvent_frame s k o t r
  rw [frame]
  exact ⟨rfl, rfl⟩

@[simp] theorem raiseFault_leavesCues (k : FaultKind) (n : Nat) (a : Addr) (w : Option (Fin 16)) :
    s.LeavesCues (s.raiseFault k n a w) := by
  obtain ⟨_, _, _, _, _, _, frame⟩ := raiseFault_frame s k n a w
  rw [frame]
  exact ⟨rfl, rfl⟩

@[simp] theorem clearFault_leavesCues (c : Bool) : s.LeavesCues (s.clearFault c) := by
  unfold State.clearFault State.setFaultRecord
  repeat' split
  all_goals simp

@[simp] theorem loseEvent_leavesCues : s.LeavesCues s.loseEvent := by
  simp [State.loseEvent]

@[simp] theorem listDirty_leavesCues (id : RecordId) (l : List Nat) : s.LeavesCues (s.listDirty id l) := by
  unfold State.listDirty
  split <;> simp

@[simp] theorem respond_leavesCues (m : Fin 16) (ok : Bool) (d : List Word) : s.LeavesCues (s.respond m ok d) := ⟨rfl, rfl⟩

@[simp] theorem respondDropped_leavesCues (m : Fin 16) (a : Access) : s.LeavesCues (s.respondDropped m a) := ⟨rfl, rfl⟩

@[simp] theorem snoop_leavesCues (src : HazardSource) (a : Addr) (n : Nat) : s.LeavesCues (s.snoop src a n) := ⟨rfl, rfl⟩

theorem takeRequests_leavesCues (l : List Access) : ∀ s : State, s.LeavesCues (takeRequests l s) := by
  induction l with
  | nil => exact fun _ => ⟨rfl, rfl⟩
  | cons a rest ih =>
    intro s
    unfold takeRequests
    split
    · exact ih (s.enqueue a)
    · exact ⟨rfl, rfl⟩

@[simp] theorem endRetirement_leavesCues (w : Fin 16) : s.LeavesCues (s.endRetirement w) := by
  unfold State.endRetirement
  split <;> simp

@[simp] theorem settle_leavesCues : s.LeavesCues s.settle :=
  (leavesCues_foldl endRetirement_leavesCues (List.finRange 16) s).trans (takeRequests_leavesCues _ s.endRetirements)

/-! ## The Frame Translator and the memory path -/

@[simp] theorem joinQueue_leavesCues (r : TransReq) : s.LeavesCues (s.joinQueue r) := by
  unfold State.joinQueue
  split <;> exact ⟨rfl, rfl⟩

@[simp] theorem touchCache_leavesCues (c : CacheEntry) : s.LeavesCues (s.touchCache c) := ⟨rfl, rfl⟩

@[simp] theorem translate_leavesCues (o : Owner) (w : Fin 16) (f : Nat) (d : Option Addr) (own : Bool) :
    s.LeavesCues (s.translate o w f d own).2 := by
  unfold State.translate
  dsimp only
  repeat' split
  all_goals simp

@[simp] theorem passUnchanged_leavesCues (m : Fin 16) (a : Access) : s.LeavesCues (s.passUnchanged m a) := ⟨rfl, rfl⟩

@[simp] theorem underrun_leavesCues (m : Fin 16) (a : Access) (d : Fin 8) : s.LeavesCues (s.underrun m a d) := by
  simp [State.underrun]

@[simp] theorem deliver_leavesCues (m : Fin 16) (a : Access) (h : WinHit) (t : Treatment) (own : Bool) (p : Addr) :
    s.LeavesCues (s.deliver m a h t own p) := by
  unfold State.deliver State.issueClip
  dsimp only
  repeat' split
  all_goals simp

@[simp] theorem sendThrough_leavesCues (m : Fin 16) (a : Access) (h : WinHit) (t : Treatment) (own : Bool) :
    s.LeavesCues (s.sendThrough m a h t own) := by
  unfold State.sendThrough
  dsimp only
  split <;> simp

@[simp] theorem giveMaster_leavesCues (m : Fin 16) (p : Addr) : s.LeavesCues (s.giveMaster m p) := by
  unfold State.giveMaster
  split <;> simp

@[simp] theorem refuseMaster_leavesCues (m : Fin 16) : s.LeavesCues (s.refuseMaster m) := by
  unfold State.refuseMaster
  split <;> simp

@[simp] theorem finishMix_leavesCues (m : Fin 16) (a : Access) (v : MixValues) (r : Answer) (c : List Word) :
    s.LeavesCues (s.finishMix m a v r c) := by
  unfold State.finishMix
  split <;> simp

theorem answerAccess_leavesCues (m : Fin 16) (a : Access) (i : Issue) (r : Answer) :
    s.LeavesCues (s.answerAccess m a i r) := by
  unfold State.answerAccess State.memoryError
  dsimp only
  repeat' split
  all_goals simp

theorem answerClip_leavesCues (m : Fin 16) (a : Access) (i : Issue) (r : Answer) : s.LeavesCues (s.answerClip m a i r) := by
  unfold State.answerClip
  dsimp only
  repeat' split
  all_goals simp

theorem answerSource_leavesCues (m : Fin 16) (a : Access) (i : Issue) (r : Answer) :
    s.LeavesCues (s.answerSource m a i r) := by
  unfold State.answerSource
  repeat' split
  all_goals simp

theorem withIssued_leavesCues (m : Fin 16) (r : Answer) {f : Access → Issue → State} (h : ∀ a i, s.LeavesCues (f a i)) :
    s.LeavesCues (s.withIssued m r f) := by
  unfold State.withIssued
  repeat' split
  · exact h _ _
  · simp
  · simp

theorem issueFetch_leavesCues : s.LeavesCues s.issueFetch := by
  unfold State.issueFetch
  repeat' split
  all_goals simp

theorem joinFromWait_leavesCues : s.LeavesCues s.joinFromWait := by
  unfold State.joinFromWait
  repeat' split
  all_goals simp

/-! ## Uplink Combiner -/

@[simp] theorem countLate_leavesCues (g : Fin 12) : s.LeavesCues (s.countLate g) := by simp [State.countLate]

@[simp] theorem countSequence_leavesCues (g : Fin 12) : s.LeavesCues (s.countSequence g) := by simp [State.countSequence]

@[simp] theorem countFlushError_leavesCues (v : Fin 8) : s.LeavesCues (s.countFlushError v) := by simp [State.countFlushError]

@[simp] theorem contribute_leavesCues (n : Fin 16) (g : Fin 12) (a : Access) (o : Nat) :
    s.LeavesCues (s.contribute n g a o).2 := by
  unfold State.contribute State.updateGate
  dsimp only
  repeat' split
  all_goals simp

@[simp] theorem accountSegment_leavesCues (t : Slot) (g : Fin 12) : s.LeavesCues (State.accountSegment t s g) := by
  unfold State.accountSegment
  dsimp only
  repeat' split
  all_goals simp

@[simp] theorem accountMisses_leavesCues (t : Slot) (o : SlotOutcome) : s.LeavesCues (s.accountMisses t o) := by
  unfold State.accountMisses
  split
  · simp
  · exact leavesCues_foldl (fun u g => accountSegment_leavesCues u t g) _ s

@[simp] theorem beginFlush_leavesCues (n : Fin 16) (o : SlotOutcome) : s.LeavesCues (s.beginFlush n o).2 := by
  unfold State.beginFlush State.enterFlushing State.countFrame
  dsimp only
  split <;> simp

@[simp] theorem issueBursts_leavesCues (n : Fin 16) (p : Addr) : s.LeavesCues (s.issueBursts n p) := by
  have snooped := leavesCues_foldl (fun u k => snoop_leavesCues u (.flush n k) (burstAddr p k) 16) (List.finRange 16)
  simp [State.issueBursts, snooped]

@[simp] theorem freeAfterFlush_leavesCues (n : Fin 16) : s.LeavesCues (s.freeAfterFlush n) := by
  have released (u : State) (m : Fin 16) : u.LeavesCues (State.releaseRead n u m) := by
    unfold State.releaseRead
    repeat' split
    all_goals simp
  rw [freeAfterFlush_eq]
  exact leavesCues_foldl released _ _

@[simp] theorem serveAlloc_leavesCues (p : PendingAlloc) : s.LeavesCues (s.serveAlloc p) := by
  have judged (u : State) (m : Fin 16) : u.LeavesCues (State.contributeWaiting p.slot u m) := by
    unfold State.contributeWaiting
    split <;> simp
  have dropped (u : State) (m : Fin 16) : u.LeavesCues (u.dropWaiting m) := by
    unfold State.dropWaiting
    split <;> simp
  unfold State.serveAlloc
  split
  · exact leavesCues_foldl judged _ _
  · exact leavesCues_foldl dropped _ _

end

theorem endFlush_leavesCues (n : Fin 16) : ∀ (k : Nat) (s : State), s.LeavesCues (State.endFlush k n s)
  | 0, _ => ⟨rfl, rfl⟩
  | k + 1, s => by
    unfold State.endFlush
    dsimp only
    repeat' split
    all_goals simp [endFlush_leavesCues n k]

section
variable (s : State)

@[simp] theorem flushEnds_leavesCues (n : Fin 16) : s.LeavesCues (s.flushEnds n) := endFlush_leavesCues n _ s

@[simp] theorem flushRefused_leavesCues (n : Fin 16) : s.LeavesCues (s.flushRefused n) := by simp [State.flushRefused]

@[simp] theorem startFlush_leavesCues (n : Fin 16) (o : SlotOutcome) : s.LeavesCues (s.startFlush n o) := by
  unfold State.startFlush
  dsimp only
  split <;> simp

@[simp] theorem checkComplete_leavesCues (n : Fin 16) : s.LeavesCues (s.checkComplete n) := by
  unfold State.checkComplete
  split <;> simp

theorem answerBurst_leavesCues (n k : Fin 16) (ok : Bool) : s.LeavesCues (s.answerBurst n k ok) := by
  have ended : s.LeavesCues (s.endHazards (.flush n k)) := ⟨rfl, rfl⟩
  unfold State.answerBurst State.answerFlush
  dsimp only
  repeat' split
  all_goals simp [ended]

@[simp] theorem joinSlot_leavesCues (n m : Fin 16) (g : Fin 12) (a : Access) (o : Nat) (fresh : Bool) :
    s.LeavesCues (s.joinSlot n m g a o fresh) := by
  unfold State.joinSlot
  dsimp only
  split <;> simp

theorem judgeHorizon_leavesCues (m : Fin 16) (g : Fin 12) (a : Access) (h : WinHit) : s.LeavesCues (s.judgeHorizon m g a h) := by
  unfold State.judgeHorizon State.createAlloc State.countEviction State.dropLate State.moveHorizon State.allocate
  dsimp only
  repeat' split
  all_goals simp

theorem treatUplinkWrite_leavesCues (m : Fin 16) (a : Access) (h : WinHit) : s.LeavesCues (s.treatUplinkWrite m a h) := by
  have told (u : State) (g : Fin 12) : u.LeavesCues (u.tellPartial g h) := by
    unfold State.tellPartial
    dsimp only
    repeat' split
    all_goals simp
  unfold State.treatUplinkWrite State.judgeUplink State.dropLate State.waitOnAlloc
  repeat' split
  all_goals simp [told, judgeHorizon_leavesCues]

theorem treatUplinkRead_leavesCues (m : Fin 16) (a : Access) (h : WinHit) : s.LeavesCues (s.treatUplinkRead m a h) := by
  unfold State.treatUplinkRead
  dsimp only
  repeat' split
  all_goals simp

theorem completeFetch_leavesCues (f : MapFetch) (ok : Bool) (e : Word) : s.LeavesCues (s.completeFetch f ok e) := by
  have gives (p : Addr) (u : State) (r : TransReq) : u.LeavesCues (State.giveRequest p u r) := by
    unfold State.giveRequest
    split <;> simp
  have refuses (u : State) (r : TransReq) : u.LeavesCues (u.refuseRequest r) := by
    unfold State.refuseRequest
    split <;> simp
  have ended : s.LeavesCues (s.endFetch f.request) := ⟨rfl, rfl⟩
  have cached (p : Addr) : s.LeavesCues ((s.endFetch f.request).createCacheEntry f.request p) := ⟨rfl, rfl⟩
  have fails (k : FaultKind) : s.LeavesCues (s.failFetch f.request k) :=
    (ended.trans (raiseFault_leavesCues _ k _ _ _)).trans (leavesCues_foldl refuses _ _)
  have fills : s.LeavesCues (s.fillFetch f.request e) := (cached _).trans (leavesCues_foldl (gives _) _ _)
  unfold State.completeFetch
  repeat' split
  · exact ⟨rfl, rfl⟩
  · exact fails _
  · exact fills
  · exact fails _

/-! ## Downlink traffic, the Supervisor and departures -/

theorem treatDownlinkRead_leavesCues (m : Fin 16) (a : Access) (h : WinHit) : s.LeavesCues (s.treatDownlinkRead m a h) := by
  unfold State.treatDownlinkRead
  repeat' split
  all_goals simp

@[simp] theorem raiseSegment_leavesCues (k : EventKind) (g : Fin 12) : s.LeavesCues (s.raiseSegment k g) :=
  raiseEvent_leavesCues s _ _ _ _

@[simp] theorem noticeDeparture_leavesCues (g : Fin 12) (was : SegState) : s.LeavesCues (s.noticeDeparture g was) := by
  unfold State.noticeDeparture
  split <;> simp

theorem notices_leavesCues (m : Fin 16) (a : Access) : s.LeavesCues (s.notices m a) := by
  have noticed : s.LeavesCues (s.noticeAccess m) := by
    unfold State.noticeAccess State.noticeSegment State.restartTimer State.resume
    repeat' split
    all_goals simp
  unfold State.notices
  split <;> simp [noticed.1, noticed.2]

@[simp] theorem enableSegment_leavesCues (g : Fin 12) : s.LeavesCues (s.enableSegment g) := by
  unfold State.enableSegment
  dsimp only
  split <;> simp

@[simp] theorem disableSegment_leavesCues (g : Fin 12) : s.LeavesCues (s.disableSegment g) := by
  unfold State.disableSegment
  dsimp only
  split <;> simp

@[simp] theorem stall_leavesCues (g : Fin 12) : s.LeavesCues (s.stall g) := by simp [State.stall]

theorem takeHandover_leavesCues (g : Fin 12) : s.LeavesCues (s.takeHandover g) := by
  unfold State.takeHandover State.judgeHandover State.exclude
  repeat' split
  all_goals simp

theorem takeDeparture_leavesCues (g : Fin 12) : s.LeavesCues (s.takeDeparture g) := by
  have left (u : State) : u.LeavesCues (u.depart g) := by
    have leaves (x : State) (n : Fin 16) : x.LeavesCues (State.leaveSlot g x n) := ⟨rfl, rfl⟩
    exact (leavesCues_foldl leaves _ u).trans (leavesCues_foldl checkComplete_leavesCues _ _)
  unfold State.takeDeparture
  split
  · exact left _
  · exact ⟨rfl, rfl⟩

theorem takeDepartures_leavesCues (gs : List (Fin 12)) : s.LeavesCues (s.takeDepartures gs) :=
  leavesCues_foldl takeDeparture_leavesCues gs s

theorem giveNotices_leavesCues : s.LeavesCues s.giveNotices := by
  unfold State.giveNotices
  split
  · exact ⟨rfl, rfl⟩
  · simp [takeDepartures_leavesCues]

/-! ## Taking an access, the reads of the control region and the retirement of windows -/

theorem check_leavesCues (m : Fin 16) (a : Access) : s.LeavesCues (s.check m a) := by
  have handed (u : State) (c : Cls) : u.LeavesCues (u.handOn m c) := ⟨rfl, rfl⟩
  unfold State.check State.dropOffline State.checkPartial
  dsimp only
  repeat' split
  all_goals simp [handed]

theorem takeAccess_leavesCues (m : Fin 16) : s.LeavesCues (s.takeAccess m) := by
  unfold State.takeAccess
  split
  · simp [check_leavesCues, notices_leavesCues]
  · exact ⟨rfl, rfl⟩

theorem treatControlRead_leavesCues (m : Fin 16) (a : Access) : s.LeavesCues (s.treatControlRead m a) := by
  unfold State.treatControlRead
  split <;> simp

theorem chargeProtected_leavesCues (m : Fin 16) (a : Access) : s.LeavesCues (s.chargeProtected m a) := by
  unfold State.chargeProtected State.countProtected State.refuse
  dsimp only
  repeat' split
  all_goals simp

@[simp] theorem retireSlots_leavesCues (w : Fin 16) : s.LeavesCues (s.retireSlots w) := by
  have retired (u : State) (n : Fin 16) : u.LeavesCues (State.retireSlot w u n) := by
    unfold State.retireSlot
    split <;> simp
  exact leavesCues_foldl retired _ s

theorem reclassify_leavesCues (m : Fin 16) : s.LeavesCues (s.reclassify m) := by
  unfold State.reclassify
  repeat' split
  all_goals simp

/-! ## Write-backs, the write-out and event writes -/

theorem startWriteBack_leavesCues : s.LeavesCues s.startWriteBack := by
  unfold State.startWriteBack
  repeat' split
  all_goals simp

theorem answerWriteBack_leavesCues (b : WriteBack) (k : Nat) (ok : Bool) : s.LeavesCues (s.answerWriteBack b k ok) := by
  have record (id : RecordId) (u : State) (m : Fin 16) : u.LeavesCues (State.releaseRecord id u m) := by
    unfold State.releaseRecord
    repeat' split
    all_goals simp
  have write (u : State) (m : Fin 16) : u.LeavesCues (u.releaseWrite m) := by
    unfold State.releaseWrite
    split <;> exact ⟨rfl, rfl⟩
  have ended (u : State) (b : WriteBack) : u.LeavesCues (u.endWriteBack b) :=
    (leavesCues_foldl (record b.id) _ { u with writeBack := none }).trans (leavesCues_foldl write _ _)
  unfold State.answerWriteBack
  dsimp only
  repeat' split
  all_goals simp [ended]

theorem answerWriteOut_leavesCues (o : WriteOut) (k : Nat) (ok : Bool) : s.LeavesCues (s.answerWriteOut o k ok) := by
  have release (u : State) (m : Fin 16) : u.LeavesCues (u.releaseWriteOut m) := by
    unfold State.releaseWriteOut
    split <;> exact ⟨rfl, rfl⟩
  have ended (u : State) (b : Bool) : u.LeavesCues (u.endWriteOut b) := by
    have released := leavesCues_foldl release (List.finRange 16)
    unfold State.endWriteOut
    simp [released]
  unfold State.answerWriteOut
  dsimp only
  repeat' split
  all_goals simp [ended]

theorem issueEvent_leavesCues : s.LeavesCues s.issueEvent := by
  unfold State.issueEvent
  split <;> exact ⟨rfl, rfl⟩

theorem answerEvent_leavesCues (ok : Bool) : s.LeavesCues (s.answerEvent ok) := by
  unfold State.answerEvent
  repeat' split
  all_goals simp

theorem release_leavesCues (b : BitVec 8) (m : BitVec 4) (d : BitVec 6) : s.LeavesCues (s.release b m d) := by
  unfold State.release
  split <;> exact ⟨rfl, rfl⟩

end

end Sys2Proof.Machine
end

section
/-! What the promises about cues ask of one cue entry and of one zone record (R113, R115, R127 to R129), and the changes of an
entry or a record that keep them. -/

namespace Sys2Proof.Machine

/-! ## Memberships (R113) -/

/-- The cue is active or suspended in the zone (R113). -/
def ZoneRecord.Holds (r : ZoneRecord) (c : Fin 32) : Prop :=
  (∃ a, r.active = some a ∧ a.cue = c) ∨ ∃ x ∈ r.stack, x.cue = c

theorem playingIn_iff (zones : Vector ZoneRecord 8) (c : Fin 32) (z : Fin 8) :
    playingIn zones c z = true ↔ ∃ a, (zones.get z).active = some a ∧ a.cue = c := by
  unfold playingIn
  cases (zones.get z).active <;> simp

theorem suspendedIn_iff (zones : Vector ZoneRecord 8) (c : Fin 32) (z : Fin 8) :
    suspendedIn zones c z = true ↔ ∃ x ∈ (zones.get z).stack, x.cue = c := by
  simp [suspendedIn, List.any_eq_true]

theorem State.plays_iff (s : State) (c : Fin 32) :
    s.plays c = true ↔ ∃ z a, (s.zones.get z).active = some a ∧ a.cue = c := by
  simp [State.plays, List.any_eq_true, playingIn_iff]

theorem State.member_iff (s : State) (c : Fin 32) :
    s.member c = true ↔ (s.cues.get c).waiting ≠ 0 ∨ ∃ z, (s.zones.get z).Holds c := by
  simp only [State.member, State.suspended, Bool.or_eq_true, bne_iff_ne, State.plays_iff, List.any_eq_true,
    List.mem_finRange, true_and, suspendedIn_iff, ZoneRecord.Holds, exists_or, or_assoc]

theorem State.member_eq_false_iff (s : State) (c : Fin 32) :
    s.member c = false ↔ (s.cues.get c).waiting = 0 ∧ ∀ z, ¬(s.zones.get z).Holds c := by
  rw [Bool.eq_false_iff, Ne, State.member_iff, not_or, not_not, not_exists]

theorem State.CueSound.idle_free {s : State} (sound : s.CueSound) {c : Fin 32} (idle : (s.cues.get c).state = .idle) :
    (s.cues.get c).waiting = 0 ∧ ∀ z, ¬(s.zones.get z).Holds c :=
  (s.member_eq_false_iff c).mp ((sound.1 c).2.1 idle)

theorem State.CueSound.live_of_holds {s : State} (sound : s.CueSound) {c : Fin 32} {z : Fin 8}
    (holds : (s.zones.get z).Holds c) : (s.cues.get c).state ≠ .idle :=
  fun idle => (sound.idle_free idle).2 z holds

theorem State.CueSound.live_of_waiting {s : State} (sound : s.CueSound) {c : Fin 32} (waits : (s.cues.get c).waiting ≠ 0) :
    (s.cues.get c).state ≠ .idle :=
  fun idle => waits (sound.idle_free idle).1

/-! ## One zone's stack (R127 to R129) -/

/-- The stack entries carry their cues' levels, which fall from the top down and stand below the active cue's. -/
structure ZoneRecord.Ordered (r : ZoneRecord) (level : Fin 32 → Nat) : Prop where
  levels : ∀ x ∈ r.stack, x.level = level x.cue
  falling : (r.stack.map (·.level)).Pairwise (· > ·)
  below : ∀ a, r.active = some a → ∀ x ∈ r.stack, x.level < level a.cue

/-- The level of the active cue, or 0 with none (R129). -/
def ZoneRecord.levelPlayed (r : ZoneRecord) (level : Fin 32 → Nat) : Nat :=
  match r.active with
  | some a => level a.cue
  | none => 0

/-- What `State.StackSound` asks of one zone. -/
structure ZoneRecord.StackFits (r : ZoneRecord) (level : Fin 32 → Nat) : Prop extends r.Ordered level where
  empty : r.active = none → r.stack = []
  mask : r.mask = r.levelPlayed level

/-- The levels of the cues. -/
def State.cueLevel (s : State) (c : Fin 32) : Nat := (s.cues.get c).level

theorem State.stackSound_iff (s : State) : s.StackSound ↔ ∀ z, (s.zones.get z).StackFits s.cueLevel := by
  refine forall_congr' fun z => ⟨?_, ?_⟩
  · rintro ⟨levels, falling, playing, idle⟩
    refine ⟨⟨levels, falling, fun a active => (playing a active).1⟩, fun active => (idle active).1, ?_⟩
    unfold ZoneRecord.levelPlayed
    cases active : (s.zones.get z).active with
    | none => exact (idle active).2
    | some a => exact (playing a active).2
  · rintro ⟨⟨levels, falling, below⟩, empty, mask⟩
    refine ⟨levels, falling, fun a active => ⟨below a active, ?_⟩, fun active => ⟨empty active, ?_⟩⟩
    all_goals simpa [ZoneRecord.levelPlayed, active, State.cueLevel] using mask

section
variable {r q : ZoneRecord} {level height : Fin 32 → Nat}

theorem ZoneRecord.Ordered.congr (ordered : r.Ordered level) (active : q.active = r.active) (stack : q.stack = r.stack)
    (same : ∀ c, r.Holds c → height c = level c) : q.Ordered height where
  levels x member := by
    rw [stack] at member
    rw [ordered.levels x member, same _ (.inr ⟨x, member, rfl⟩)]
  falling := by
    rw [stack]
    exact ordered.falling
  below a playing x member := by
    rw [active] at playing
    rw [stack] at member
    rw [same _ (.inl ⟨a, playing, rfl⟩)]
    exact ordered.below a playing x member

theorem ZoneRecord.StackFits.congr (fits : r.StackFits level) (active : q.active = r.active) (stack : q.stack = r.stack)
    (mask : q.mask = r.mask) (same : ∀ c, r.Holds c → height c = level c) : q.StackFits height where
  toOrdered := fits.toOrdered.congr active stack same
  empty := by
    rw [active, stack]
    exact fits.empty
  mask := by
    rw [mask, fits.mask]
    unfold ZoneRecord.levelPlayed
    rw [active]
    cases playing : r.active with
    | none => rfl
    | some a => exact (same _ (.inl ⟨a, playing, rfl⟩)).symm
end

theorem State.LeavesCues.cueLevel {s t : State} (h : s.LeavesCues t) : t.cueLevel = s.cueLevel := by
  unfold State.cueLevel
  rw [h.2]

/-! ## Operations that keep both promises -/

/-- The promise about cues is kept, and under it the promise about zone stacks. -/
structure KeepsCues (s t : State) : Prop where
  cues : s.CueSound → t.CueSound
  inOrder : s.CueSound → s.StackSound → t.StackSound

theorem KeepsCues.refl (s : State) : KeepsCues s s := ⟨id, fun _ => id⟩

theorem KeepsCues.trans {s t u : State} (h : KeepsCues s t) (k : KeepsCues t u) : KeepsCues s u :=
  ⟨k.cues ∘ h.cues, fun sound order => k.inOrder (h.cues sound) (h.inOrder sound order)⟩

theorem KeepsCues.ite {s t u : State} {p : Prop} [Decidable p] (h : KeepsCues s t) (k : KeepsCues s u) :
    KeepsCues s (if p then t else u) := by
  split
  · exact h
  · exact k

theorem KeepsCues.foldl {α : Type} {f : State → α → State} (h : ∀ s x, KeepsCues s (f s x)) (l : List α) :
    ∀ s, KeepsCues s (l.foldl f s) := by
  induction l with
  | nil => exact KeepsCues.refl
  | cons x l ih => exact fun s => (h s x).trans (ih (f s x))

theorem State.LeavesCues.keepsCues {s t : State} (h : s.LeavesCues t) : KeepsCues s t where
  cues := by
    unfold State.CueSound State.member State.plays State.suspended
    rw [h.1, h.2]
    exact id
  inOrder _ := by
    unfold State.StackSound
    rw [h.1, h.2]
    exact id

section
variable {s t : State} (h : KeepsCues s t)
include h

theorem KeepsCues.list (id : RecordId) : KeepsCues s (t.list id) := h.trans (State.LeavesCues.keepsCues (by simp))

theorem KeepsCues.listIf (b : Bool) (id : RecordId) : KeepsCues s (t.listIf b id) :=
  h.trans (State.LeavesCues.keepsCues (by simp))

theorem KeepsCues.listDirty (id : RecordId) (l : List Nat) : KeepsCues s (t.listDirty id l) :=
  h.trans (listDirty_leavesCues t id l).keepsCues

theorem KeepsCues.raiseEvent (k : EventKind) (o : Nat) (tag : Byte) (r : Nat) : KeepsCues s (t.raiseEvent k o tag r) :=
  h.trans (raiseEvent_leavesCues t k o tag r).keepsCues
end

/-! ## A cue entry replaced -/

section
variable {s : State} {c : Fin 32} {e : CueEntry}

theorem setCue_cueSound (sound : s.CueSound) (level : e.level ≤ 7)
    (idle : e.state = .idle → e.waiting = 0 ∧ ∀ z, ¬(s.zones.get z).Holds c) (live : e.state ≠ .idle → e.level ≠ 0)
    (tag : e.state ≠ .idle → ∀ d, d ≠ c → (s.cues.get d).state ≠ .idle → (s.cues.get d).tag ≠ e.tag) :
    (s.setCue c e).CueSound := by
  refine ⟨fun d => ?_, fun x y => ?_⟩
  · rw [State.member_eq_false_iff, State.setCue_cues, State.setCue_zones, setAt_get]
    split
    · next here => exact ⟨level, here ▸ idle, live⟩
    · exact ⟨(sound.1 d).1, sound.idle_free, (sound.1 d).2.2⟩
  · rw [State.setCue_cues, setAt_get, setAt_get]
    split <;> split
    · next cx cy => exact fun _ _ _ => cx.symm.trans cy
    · next cy => exact fun here there same => absurd same.symm (tag here y (Ne.symm cy) there)
    · next cx _ => exact fun there here same => absurd same (tag here x (Ne.symm cx) there)
    · exact sound.2 x y

/-- A cue that a zone holds keeps its level. -/
theorem setCue_stackSound (sound : s.StackSound)
    (level : (∃ z, (s.zones.get z).Holds c) → e.level = (s.cues.get c).level) : (s.setCue c e).StackSound := by
  rw [State.stackSound_iff] at sound ⊢
  refine fun z => (sound z).congr rfl rfl rfl fun d holds => ?_
  rw [State.cueLevel, State.setCue_cues, setAt_get]
  split
  · next here =>
    subst here
    exact level ⟨z, holds⟩
  · rfl

/-- A cue that keeps its tag and level, and does not leave IDLE. -/
theorem setCue_keepsCues (level : e.level = (s.cues.get c).level) (tag : e.tag = (s.cues.get c).tag)
    (stays : (s.cues.get c).state = .idle → e.state = .idle)
    (idle : s.CueSound → e.state = .idle → e.waiting = 0 ∧ ∀ z, ¬(s.zones.get z).Holds c) : KeepsCues s (s.setCue c e) where
  cues sound := by
    refine setCue_cueSound sound ?_ (idle sound) ?_ fun live d other busy same => ?_
    · rw [level]
      exact (sound.1 c).1
    · rw [level]
      exact fun live => (sound.1 c).2.2 (mt stays live)
    · exact other (sound.2 d c busy (mt stays live) (same.trans tag))
  inOrder _ order := setCue_stackSound order fun _ => level
end

theorem setCue_cueLevel {s : State} {c : Fin 32} {e : CueEntry} (level : e.level = (s.cues.get c).level) :
    (s.setCue c e).cueLevel = s.cueLevel := by
  funext d
  rw [State.cueLevel, State.setCue_cues, setAt_get]
  split
  · next here =>
    subst here
    exact level
  · rfl

/-! ## A zone record replaced -/

section
variable {s : State} {z : Fin 8} {r : ZoneRecord}

theorem setZone_cueSound (sound : s.CueSound) (held : ∀ c, r.Holds c → (s.cues.get c).state ≠ .idle) :
    (s.setZone z r).CueSound := by
  refine ⟨fun c => ⟨(sound.1 c).1, fun idle => ?_, (sound.1 c).2.2⟩, sound.2⟩
  refine (State.member_eq_false_iff _ c).mpr ⟨(sound.idle_free idle).1, fun x => ?_⟩
  rw [State.setZone_zones, setAt_get]
  split
  · exact fun holds => held c holds idle
  · exact (sound.idle_free idle).2 x

/-- A zone record that holds no other cues than before. -/
theorem setZone_keepsCues (held : ∀ c, r.Holds c → (s.zones.get z).Holds c)
    (fits : (s.zones.get z).StackFits s.cueLevel → r.StackFits s.cueLevel) : KeepsCues s (s.setZone z r) where
  cues sound := setZone_cueSound sound fun c holds => sound.live_of_holds (held c holds)
  inOrder _ order := by
    rw [State.stackSound_iff] at order ⊢
    intro x
    rw [State.setZone_zones, setAt_get]
    split
    · exact fits (order z)
    · exact order x

theorem setZone_keepsCues_of_same (active : r.active = (s.zones.get z).active) (stack : r.stack = (s.zones.get z).stack)
    (mask : r.mask = (s.zones.get z).mask) : KeepsCues s (s.setZone z r) := by
  refine setZone_keepsCues (fun c => ?_) fun fits => fits.congr active stack mask fun _ _ => rfl
  unfold ZoneRecord.Holds
  rw [active, stack]
  exact id
end

/-! ## Memberships removed and the end check (R117 to R119) -/

theorem endCheck_keepsCues (s : State) (c : Fin 32) (r : CueReason) : KeepsCues s (s.endCheck c r) := by
  unfold State.endCheck
  dsimp only
  split
  · next ends =>
    have free := (s.member_eq_false_iff c).mp ends.2
    refine ((setCue_keepsCues ?_ ?_ ?_ fun _ _ => ?_).list _).raiseEvent _ _ _ _
    · rfl
    · rfl
    · exact fun _ => rfl
    · exact free
  · exact .refl s

theorem endCheck_zones (s : State) (c : Fin 32) (r : CueReason) : (s.endCheck c r).zones = s.zones := by
  unfold State.endCheck
  dsimp only
  split <;> simp [State.raiseCue]

theorem endCheck_cueLevel (s : State) (c : Fin 32) (r : CueReason) : (s.endCheck c r).cueLevel = s.cueLevel := by
  unfold State.endCheck
  dsimp only
  split
  · exact (raiseEvent_leavesCues _ _ _ _ _).cueLevel.trans (setCue_cueLevel (s := s) (c := c)
      (e := { s.cues.get c with state := .idle, stopped := false, lastEnd := (s.cues.get c).endReason r }) rfl)
  · rfl

theorem dropWaits_keepsCues (s : State) (c : Fin 32) : KeepsCues s (s.dropWaits c) := by
  unfold State.dropWaits
  refine (setCue_keepsCues ?_ ?_ ?_ fun sound idle => ?_).listIf _ _
  · rfl
  · rfl
  · exact id
  · exact ⟨rfl, (sound.idle_free idle).2⟩

/-! ## Requests (R114 to R118) -/

theorem refuseStart_keepsCues (s : State) (c : Fin 32) (r : CueReason) : KeepsCues s (s.refuseStart c r) := by
  unfold State.refuseStart State.raiseCue
  refine ((setCue_keepsCues ?_ ?_ ?_ fun sound idle => ?_).listIf _ _).raiseEvent _ _ _ _
  · rfl
  · rfl
  · exact id
  · exact sound.idle_free idle

/-- A START that no condition refuses (R115). -/
theorem judgeStart_accepts {s : State} {c : Fin 32} (accepted : s.judgeStart c = none) :
    (s.cues.get c).level ≠ 0 ∧
      ∀ d, d ≠ c → (s.cues.get d).state ≠ .idle → (s.cues.get d).tag ≠ (s.cues.get c).tag := by
  unfold State.judgeStart at accepted
  dsimp only at accepted
  split at accepted
  · cases accepted
  split at accepted
  · cases accepted
  split at accepted
  · cases accepted
  next level =>
  split at accepted
  · cases accepted
  next free =>
  refine ⟨fun zero => level (.inl zero), fun d other busy same => free ?_⟩
  exact List.any_eq_true.mpr ⟨d, List.mem_finRange d, by simp [other, busy, same]⟩

theorem acceptStart_keepsCues {s : State} {c : Fin 32} (accepted : s.judgeStart c = none) : KeepsCues s (s.acceptStart c) := by
  obtain ⟨level, tags⟩ := judgeStart_accepts accepted
  exact ⟨fun sound => setCue_cueSound sound (sound.1 c).1 nofun (fun _ => level) fun _ => tags,
    fun _ order => setCue_stackSound order fun _ => rfl⟩

theorem cancelIfQueued_keepsCues (s : State) (c : Fin 32) : KeepsCues s (s.cancelIfQueued c) :=
  KeepsCues.ite ((dropWaits_keepsCues s c).trans (endCheck_keepsCues _ c _)) (.refl s)

theorem startCue_keepsCues (s : State) (c : Fin 32) (host : Bool) : KeepsCues s (s.startCue c host) := by
  unfold State.startCue
  split
  · next accepted => exact acceptStart_keepsCues accepted
  · exact KeepsCues.ite ((refuseStart_keepsCues s c _).trans (KeepsCues.foldl cancelIfQueued_keepsCues _ _))
      (refuseStart_keepsCues s c _)

theorem ZoneRecord.StackFits.filter {r : ZoneRecord} {level : Fin 32 → Nat} (fits : r.StackFits level)
    (p : StackEntry → Bool) : ({ r with stack := r.stack.filter p } : ZoneRecord).StackFits level where
  levels x member := fits.levels x (List.mem_of_mem_filter member)
  falling := fits.falling.sublist (List.filter_sublist.map _)
  below a playing x member := fits.below a playing x (List.mem_of_mem_filter member)
  empty playing := by
    dsimp only
    rw [fits.empty playing]
    rfl
  mask := fits.mask

theorem dropStack_keepsCues (c : Fin 32) (s : State) (z : Fin 8) : KeepsCues s (State.dropStack c s z) := by
  unfold State.dropStack
  dsimp only
  refine KeepsCues.ite ((setZone_keepsCues (fun d holds => ?_) fun fits => fits.filter _).list _) (.refl s)
  exact holds.imp_right fun ⟨x, member, cue⟩ => ⟨x, List.mem_of_mem_filter member, cue⟩

theorem stopCue_keepsCues (s : State) (c : Fin 32) : KeepsCues s (s.stopCue c) := by
  have cleared (st : CueState) (live : st ≠ .idle) (was : (s.cues.get c).state ≠ .idle) : KeepsCues s
      ((((List.finRange 8).foldl (State.dropStack c) s).setCue c
        { s.cues.get c with waiting := 0, stopped := true, state := st }).list (.cue c)) := by
    have cues := dropStacks_cues c (List.finRange 8) s
    refine ((KeepsCues.foldl (dropStack_keepsCues c) _ s).trans (setCue_keepsCues ?_ ?_ ?_ ?_)).list _
    · rw [cues]
    · rw [cues]
    · rw [cues]
      exact fun idle => absurd idle was
    · exact fun _ idle => absurd idle live
  unfold State.stopCue
  dsimp only
  split
  · exact .refl s
  · exact .refl s
  · next queued => exact (cleared .queued nofun (by rw [queued]; nofun)).trans (endCheck_keepsCues _ c _)
  · next active =>
    have was : (s.cues.get c).state ≠ .idle := by rw [active]; nofun
    exact KeepsCues.ite (cleared .stopping nofun was) ((cleared .active nofun was).trans (endCheck_keepsCues _ c _))

end Sys2Proof.Machine
end

section
/-! The promises about cues and zone stacks kept by the advances of a zone (R126 to R130) and by Incident Control's entry and
exit (R142 to R145). -/

namespace Sys2Proof.Machine

/-! ## The best waiting cue (R127, R128) -/

theorem foldl_better_mem {α : Type} (p : α → Bool) (f : α → Nat) (c : α) (l : List α) :
    ∀ best, l.foldl (better p f) best = some c → p c = true ∨ best = some c := by
  induction l with
  | nil => exact fun _ found => .inr found
  | cons x xs ih =>
    intro best found
    rcases ih _ found with holds | first
    · exact .inl holds
    · unfold better at first
      split at first
      · next holds =>
        split at first
        · cases first
          exact .inl holds
        · split at first <;> cases first
          · exact .inl holds
          · exact .inr rfl
      · exact .inr first

theorem bestWaiting_waits {s : State} {z : Fin 8} {floor : Nat} {c : Fin 32} (best : s.bestWaiting z floor = some c) :
    (s.cues.get c).waiting ≠ 0 ∧ floor < (s.cues.get c).level := by
  rw [s.bestWaiting_eq] at best
  have waits := (foldl_better_mem _ _ c _ none best).resolve_right nofun
  obtain ⟨bit, above⟩ := (s.waitsAbove_iff z floor c).mp waits
  exact ⟨fun none => by simp [none] at bit, above⟩

/-! ## Between the steps of an advance -/

/-- What holds of the zone stacks in the middle of an advance of zone `z`: its mask level is the one before the advance, and it
may have suspended cues and no active one. -/
structure State.StackSoundBut (s : State) (z : Fin 8) : Prop where
  others : ∀ x, x ≠ z → (s.zones.get x).StackFits s.cueLevel
  ordered : (s.zones.get z).Ordered s.cueLevel

section
variable {s t : State} {z : Fin 8} {r : ZoneRecord}

theorem State.StackSound.but (sound : s.StackSound) (z : Fin 8) : s.StackSoundBut z :=
  ⟨fun x _ => s.stackSound_iff.mp sound x, (s.stackSound_iff.mp sound z).toOrdered⟩

theorem State.StackSoundBut.congr (but : s.StackSoundBut z) (zones : t.zones = s.zones) (levels : t.cueLevel = s.cueLevel) :
    t.StackSoundBut z := by
  refine ⟨?_, ?_⟩
  · rw [zones, levels]
    exact but.others
  · rw [zones, levels]
    exact but.ordered

theorem State.StackSoundBut.setZone (but : s.StackSoundBut z) (ordered : r.Ordered s.cueLevel) : (s.setZone z r).StackSoundBut z where
  others x other := by
    rw [State.setZone_zones, setAt_get, if_neg (Ne.symm other)]
    exact but.others x other
  ordered := by
    rw [State.setZone_zones, setAt_get, if_pos rfl]
    exact ordered

theorem State.StackSoundBut.sound (but : s.StackSoundBut z) (fits : (s.zones.get z).StackFits s.cueLevel) : s.StackSound := by
  refine s.stackSound_iff.mpr fun x => ?_
  by_cases here : x = z
  · subst here
    exact fits
  · exact but.others x here

/-! ## Progress (R126) -/

theorem progress_cueSound (sound : s.CueSound) : (s.progress z).CueSound := by
  cases active : (s.zones.get z).active with
  | none =>
    rw [progress_none active]
    exact sound
  | some a =>
    rw [progress_some active]
    split
    · refine (endCheck_keepsCues _ _ _).cues (((KeepsCues.refl _).list _).cues (setZone_cueSound sound fun c holds => ?_))
      exact sound.live_of_holds (z := z) (holds.imp_left nofun)
    · refine setZone_cueSound sound fun c holds => sound.live_of_holds (z := z) (holds.imp_left ?_)
      rintro ⟨b, same, cue⟩
      cases same
      exact ⟨a, active, cue⟩

theorem progress_stackSoundBut (sound : s.StackSound) : (s.progress z).StackSoundBut z := by
  have but := sound.but z
  cases active : (s.zones.get z).active with
  | none =>
    rw [progress_none active]
    exact but
  | some a =>
    rw [progress_some active]
    split
    · have ended : (s.setZone z { s.zones.get z with active := none }).StackSoundBut z :=
        but.setZone ⟨but.ordered.levels, but.ordered.falling, nofun⟩
      refine ended.congr ?_ ?_
      · rw [endCheck_zones]
        simp
      · rw [endCheck_cueLevel]
        rfl
    · refine but.setZone ⟨but.ordered.levels, but.ordered.falling, fun b same => ?_⟩
      cases same
      exact but.ordered.below a active

/-! ## Selection (R127, R128) -/

/-- The entry of a waiting cue once it has started in the zone (R127). -/
def CueEntry.startedIn (e : CueEntry) (z : Fin 8) : CueEntry :=
  { e with
    waiting := e.waiting &&& ~~~(BitVec.twoPow 8 z.val)
    state := if e.state = .queued then .active else e.state }

theorem CueEntry.startedIn_live {e : CueEntry} (live : e.state ≠ .idle) (z : Fin 8) : (e.startedIn z).state ≠ .idle := by
  unfold CueEntry.startedIn
  dsimp only
  split
  · nofun
  · exact live

/-- A waiting cue starts over suspended ones: the cues that the zone then holds are not IDLE. -/
theorem startIn_cueSound {c : Fin 32} {stack : List StackEntry} (sound : s.CueSound) (waits : (s.cues.get c).waiting ≠ 0)
    (held : ∀ x ∈ stack, (s.cues.get x.cue).state ≠ .idle) : (s.startIn z c stack).CueSound := by
  have live := sound.live_of_waiting waits
  have zone : (s.setZone z { s.zones.get z with active := some { cue := c, k := 0 }, stack := stack }).CueSound := by
    refine setZone_cueSound sound ?_
    rintro d (⟨a, same, cue⟩ | ⟨x, member, cue⟩)
    · cases same
      exact cue ▸ live
    · exact cue ▸ held x member
  have entry : KeepsCues (s.setZone z { s.zones.get z with active := some { cue := c, k := 0 }, stack := stack })
      ((s.setZone z { s.zones.get z with active := some { cue := c, k := 0 }, stack := stack }).setCue c
        ((s.cues.get c).startedIn z)) := by
    refine setCue_keepsCues ?_ ?_ (fun idle => absurd idle live) fun _ idle => absurd idle (CueEntry.startedIn_live live z)
    · rfl
    · rfl
  rw [startIn_eq]
  exact (KeepsCues.ite ((entry.list _).raiseEvent _ _ _ _) (entry.list _)).cues zone

theorem startIn_zones (s : State) (z : Fin 8) (c : Fin 32) (stack : List StackEntry) : (s.startIn z c stack).zones =
    setAt s.zones z { s.zones.get z with active := some { cue := c, k := 0 }, stack := stack } := by
  rw [startIn_eq]
  dsimp only
  split <;> simp

theorem startIn_cueLevel (s : State) (z : Fin 8) (c : Fin 32) (stack : List StackEntry) :
    (s.startIn z c stack).cueLevel = s.cueLevel := by
  have entry : ((s.setZone z { s.zones.get z with active := some { cue := c, k := 0 }, stack := stack }).setCue c
      ((s.cues.get c).startedIn z)).cueLevel = s.cueLevel := setCue_cueLevel rfl
  have listed (u : State) : (u.list (.cue c)).cueLevel = u.cueLevel := rfl
  have raised (u : State) (k : EventKind) (tag : Byte) (r : Nat) : (u.raiseEvent k c.val tag r).cueLevel = u.cueLevel :=
    (raiseEvent_leavesCues u k c.val tag r).cueLevel
  rw [startIn_eq]
  dsimp only
  rw [apply_ite State.cueLevel, raised, ite_self, listed]
  exact entry

/-- A cue of a level above those of a stack starts over it. -/
theorem State.StackSoundBut.startIn {c : Fin 32} {stack : List StackEntry} (but : s.StackSoundBut z)
    (levels : ∀ x ∈ stack, x.level = s.cueLevel x.cue) (falling : (stack.map (·.level)).Pairwise (· > ·))
    (below : ∀ x ∈ stack, x.level < s.cueLevel c) : (s.startIn z c stack).StackSoundBut z := by
  refine (but.setZone (r := { s.zones.get z with active := some { cue := c, k := 0 }, stack := stack })
    ⟨levels, falling, fun a same => ?_⟩).congr (startIn_zones s z c stack) (startIn_cueLevel s z c stack)
  cases same
  exact below

theorem select_cueSound (sound : s.CueSound) : (s.select z).CueSound := by
  have held {x : StackEntry} (member : x ∈ (s.zones.get z).stack) : (s.cues.get x.cue).state ≠ .idle :=
    sound.live_of_holds (z := z) (.inr ⟨x, member, rfl⟩)
  cases active : (s.zones.get z).active with
  | some a =>
    obtain ⟨stays, starts⟩ := select_active active
    cases best : s.bestWaiting z (s.cues.get a.cue).level with
    | none =>
      rw [stays best]
      exact sound
    | some c =>
      rw [starts c best]
      refine startIn_cueSound (((KeepsCues.refl s).list _).cues sound) (bestWaiting_waits best).1 fun x member => ?_
      rcases List.mem_cons.mp member with rfl | member
      · exact sound.live_of_holds (z := z) (.inl ⟨a, active, rfl⟩)
      · exact held member
  | none =>
    cases stack : (s.zones.get z).stack with
    | nil =>
      obtain ⟨stays, starts⟩ := select_idle active stack
      cases best : s.bestWaiting z 0 with
      | none =>
        rw [stays best]
        exact sound
      | some c =>
        rw [starts c best]
        exact startIn_cueSound sound (bestWaiting_waits best).1 nofun
    | cons top below =>
      obtain ⟨resumes, starts⟩ := select_suspended active stack
      cases best : s.bestWaiting z top.level with
      | none =>
        rw [resumes best]
        refine ((KeepsCues.refl _).list _).cues (setZone_cueSound sound ?_)
        rintro d (⟨b, same, cue⟩ | ⟨x, member, cue⟩)
        · cases same
          exact cue ▸ held (stack ▸ List.mem_cons_self)
        · exact cue ▸ held (stack ▸ List.mem_cons_of_mem top member)
      | some c =>
        rw [starts c best]
        exact startIn_cueSound sound (bestWaiting_waits best).1 fun x => held

/-- After selection the stack is in order, and a zone with suspended cues has an active one. -/
theorem select_stackSoundBut (but : s.StackSoundBut z) :
    (s.select z).StackSoundBut z ∧ (((s.select z).zones.get z).active = none → ((s.select z).zones.get z).stack = []) := by
  obtain ⟨levels, falling, below⟩ := but.ordered
  have started {u : State} {c : Fin 32} {stack : List StackEntry} (at_ : s.select z = u.startIn z c stack)
      (playing : ((s.select z).zones.get z).active = none) : ((s.select z).zones.get z).stack = [] := by
    rw [at_, startIn_zones, setAt_get, if_pos rfl] at playing
    cases playing
  cases active : (s.zones.get z).active with
  | some a =>
    obtain ⟨stays, starts⟩ := select_active active
    cases best : s.bestWaiting z (s.cues.get a.cue).level with
    | none =>
      rw [stays best, active]
      exact ⟨but, nofun⟩
    | some c =>
      refine ⟨?_, started (starts c best)⟩
      have above := (bestWaiting_waits best).2
      rw [starts c best]
      refine (but.congr (t := s.list (.cue a.cue)) rfl rfl).startIn (fun x member => ?_) ?_ fun x member => ?_
      · rcases List.mem_cons.mp member with rfl | member
        · rfl
        · exact levels x member
      · rw [List.map_cons]
        refine List.pairwise_cons.mpr ⟨fun l member => ?_, falling⟩
        obtain ⟨x, suspended, rfl⟩ := List.mem_map.mp member
        exact below a active x suspended
      · rcases List.mem_cons.mp member with rfl | member
        · exact above
        · exact (below a active x member).trans above
  | none =>
    cases stack : (s.zones.get z).stack with
    | nil =>
      obtain ⟨stays, starts⟩ := select_idle active stack
      cases best : s.bestWaiting z 0 with
      | none =>
        rw [stays best]
        exact ⟨but, fun _ => stack⟩
      | some c =>
        refine ⟨?_, started (starts c best)⟩
        rw [starts c best]
        exact but.startIn nofun .nil nofun
    | cons top under =>
      obtain ⟨resumes, starts⟩ := select_suspended active stack
      rw [stack] at levels falling
      obtain ⟨first, later⟩ := List.pairwise_cons.mp falling
      have lower {x : StackEntry} (member : x ∈ under) : x.level < top.level :=
        first x.level (List.mem_map_of_mem member)
      cases best : s.bestWaiting z top.level with
      | none =>
        rw [resumes best]
        refine ⟨(but.setZone (r := { s.zones.get z with active := some { cue := top.cue, k := top.k }, stack := under })
          ⟨fun x member => levels x (List.mem_cons_of_mem _ member), later, fun b same x member => ?_⟩).congr rfl rfl, ?_⟩
        · cases same
          rw [← levels top List.mem_cons_self]
          exact lower member
        · simp
      | some c =>
        refine ⟨?_, started (starts c best)⟩
        have above := (bestWaiting_waits best).2
        rw [starts c best, stack]
        refine but.startIn levels falling fun x member => ?_
        rcases List.mem_cons.mp member with rfl | member
        · exact above
        · exact (lower member).trans above

/-! ## The ramp, the new record and the whole advance (R129, R130) -/

theorem activeLevel_eq (s : State) (z : Fin 8) : s.activeLevel z = (s.zones.get z).levelPlayed s.cueLevel := rfl

theorem ramp_cueSound (sound : s.CueSound) : (s.ramp z).CueSound :=
  setZone_cueSound sound fun _ holds => sound.live_of_holds (z := z) holds

theorem ramp_stackSound (but : s.StackSoundBut z) (empty : (s.zones.get z).active = none → (s.zones.get z).stack = []) :
    (s.ramp z).StackSound := by
  have ramped := but.setZone (r := { s.zones.get z with
    mask := s.activeLevel z, gd := rampStep (s.duckTarget z) (s.zones.get z).gd (s.zones.get z).ramp }) ?_
  · refine ramped.sound ?_
    rw [State.setZone_zones, setAt_get, if_pos rfl]
    exact ⟨but.ordered.congr rfl rfl fun _ _ => rfl, empty, activeLevel_eq s z⟩
  · exact but.ordered.congr rfl rfl fun _ _ => rfl

theorem formRecord_keepsCues (s : State) (z : Fin 8) (frames : Nat) : KeepsCues s (s.formRecord z frames) := by
  unfold State.formRecord
  dsimp only
  split
  · refine (setZone_keepsCues_of_same ?_ ?_ ?_).list _ <;> rfl
  · exact .refl s

end

theorem advance_keepsCues (s : State) (z : Fin 8) (frames : Nat) : KeepsCues s (s.advance z frames) := by
  have ramped : KeepsCues s (((s.progress z).select z).ramp z) := by
    refine ⟨fun sound => ramp_cueSound (select_cueSound (progress_cueSound sound)), fun _ order => ?_⟩
    obtain ⟨but, empty⟩ := select_stackSoundBut (progress_stackSoundBut (z := z) order)
    exact ramp_stackSound but empty
  exact ramped.trans (formRecord_keepsCues _ z frames)

theorem advanceBy_keepsCues (z : Fin 8) (frames : Nat) : ∀ (d : Nat) (s : State), KeepsCues s (State.advanceBy z frames d s)
  | 0, s => .refl s
  | d + 1, s => (advance_keepsCues s z frames).trans (advanceBy_keepsCues z frames d _)

/-- A judged read moves its zone by advances, or forms its first record (R124, R125). -/
theorem judgeProgram_keepsCues (s : State) (g : Fin 12) (h : WinHit) : KeepsCues s (s.judgeProgram g h).2 := by
  have timed (z : Fin 8) : KeepsCues s (s.judgeTiming g z h).2 := by
    unfold State.judgeTiming
    dsimp only
    split
    · refine (setZone_keepsCues_of_same ?_ ?_ ?_).list _ <;> rfl
    · repeat' split
      · exact .refl s
      · exact .refl s
      · exact advanceBy_keepsCues _ _ _ s
      · exact State.LeavesCues.keepsCues (by simp [State.countLag])
  unfold State.judgeProgram
  dsimp only
  repeat' split
  · exact timed _
  · exact .refl s
  · exact .refl s

theorem treatProgramRead_keepsCues (s : State) (m : Fin 16) (a : Access) (h : WinHit) :
    KeepsCues s (s.treatProgramRead m a h) := by
  unfold State.treatProgramRead
  split
  · exact (sendThrough_leavesCues _ _ _ _ _ _).keepsCues
  · exact (judgeProgram_keepsCues s _ h).trans (sendThrough_leavesCues _ _ _ _ _ _).keepsCues

/-! ## Incident Control (R140 to R146) -/

theorem rederive_keepsCues {before s : State} (c : Cause) (same : before.LeavesCues s) :
    KeepsCues before (State.rederive before s c) := by
  have starts (u : State) (d : Fin 32) : KeepsCues u (u.autoStart d) := KeepsCues.ite (startCue_keepsCues u d false) (.refl u)
  have exits (u : State) (d : Fin 32) : KeepsCues u (u.exitCue d) :=
    KeepsCues.ite ((dropWaits_keepsCues u d).trans (endCheck_keepsCues _ d _)) (.refl u)
  have refusals (u : State) : u.LeavesCues { u with refusals := Vector.replicate 16 0 } := ⟨rfl, rfl⟩
  have cleared (u : State) : u.LeavesCues { u with barred := 0, refusals := Vector.replicate 16 0 } := ⟨rfl, rfl⟩
  have entered : KeepsCues s (s.enterIncident c) :=
    (((KeepsCues.refl s).raiseEvent _ _ _ _).trans (refusals _).keepsCues).trans (KeepsCues.foldl starts _ _)
  have left : KeepsCues s (s.exitIncident c) :=
    (((KeepsCues.refl s).raiseEvent _ _ _ _).trans (KeepsCues.foldl exits _ _)).trans (cleared _).keepsCues
  exact same.keepsCues.trans ((KeepsCues.ite entered (KeepsCues.ite left (.refl s))).list _)

theorem qualify_keepsCues (s : State) : KeepsCues s s.qualify := rederive_keepsCues _ ⟨rfl, rfl⟩

theorem takeRequest_keepsCues (s : State) (bs : List WByte) (m : Fin 16) : KeepsCues s (s.takeRequest bs m) := by
  have copied (r : RequestBlock) : s.LeavesCues { s with request := r } := ⟨rfl, rfl⟩
  have consumer (u : State) : KeepsCues u (u.takeConsumer bs) := by
    unfold State.takeConsumer State.setConsumer
    split
    · exact .refl u
    · exact State.LeavesCues.keepsCues (by simp)
  have latch (u : State) : KeepsCues u (u.takeLatch bs m) := by
    unfold State.takeLatch State.clearLatch State.setLatch
    repeat' split
    · exact .refl u
    · exact rederive_keepsCues _ ⟨rfl, rfl⟩
    · exact .refl u
    · exact .refl u
    · exact rederive_keepsCues _ ⟨rfl, rfl⟩
  have fault (u : State) (o : Nat) (c : Bool) : KeepsCues u (u.takeClear bs o c) :=
    KeepsCues.ite (clearFault_leavesCues u c).keepsCues (.refl u)
  exact ((((copied _).keepsCues.trans (consumer _)).trans (latch _)).trans (fault _ _ _)).trans (fault _ _ _)

end Sys2Proof.Machine
end

section
/-! The promises about cues and zone stacks kept by a control-region write (R112 to R118, R156, R157) and by the resets: the
bytes of a cue that is not IDLE are locked, so that its tag and its level stand. -/

namespace Sys2Proof.Machine

/-! ## Where a record lies (R153) -/

/-- The place of byte `o` of entry `i` in a table of entries `w` bytes long. -/
theorem tablePlace {n w : Nat} [NeZero n] (base : Nat) (i : Fin n) {o : Nat} (within : o < w) :
    Fin.ofNat n ((base + w * i.val + o - base) / w) = i ∧ (base + w * i.val + o - base) % w = o := by
  have inside : base + w * i.val + o - base = w * i.val + o := by omega
  rw [inside, Nat.mul_add_div (by omega), Nat.mul_add_mod, Nat.div_eq_of_lt within, Nat.mod_eq_of_lt within]
  exact ⟨Fin.ofNat_val_eq_self i, rfl⟩

/-- The placement table gives each byte of a record back (R153). -/
theorem areaOf_recordOffset (id : RecordId) {o : Nat} (within : o < recordSize id) :
    areaOf (recordOffset id + o) = .record id o := by
  cases id with
  | status =>
    rw [recordSize] at within
    simp (disch := omega) only [recordOffset, areaOf, if_pos, Nat.zero_add]
  | accessFault | memoryFault =>
    rw [recordSize] at within
    simp (disch := omega) only [recordOffset, areaOf, if_neg, if_pos, Nat.add_sub_cancel_left]
  | window i | service i | segment i | zone i | cue i | slot i =>
    rw [recordSize] at within
    have := i.isLt
    simp (disch := omega) only [recordOffset, areaOf, if_neg, if_pos, tablePlace]

/-! ## The locked bytes of a cue (R157) -/

/-- The bytes carry neither the tag nor the level of the cue. -/
def SparesCue (bs : List WByte) (c : Fin 32) : Prop :=
  carried bs (recordOffset (.cue c) + 1) = none ∧ carried bs (recordOffset (.cue c) + 2) = none

/-- A write's unmasked bytes spare every cue that is not IDLE (R157). -/
theorem keptBytes_spare {s : State} {c : Fin 32} (m : Fin 16) (a : Access) (live : (s.cues.get c).state ≠ .idle) :
    SparesCue (s.keptBytes m a) c := by
  have spared (o : Nat) (within : o < 32) (field : o ≠ 0) : carried (s.keptBytes m a) (recordOffset (.cue c) + o) = none := by
    have locked : s.locked (recordOffset (.cue c) + o) = true := by
      unfold State.locked
      rw [areaOf_recordOffset (.cue c) within]
      simp [field, live]
    refine Option.map_eq_none_iff.mpr (List.find?_eq_none.mpr fun b member here => ?_)
    rw [beq_iff_eq] at here
    have unlocked := List.mem_of_mem_filter member
    unfold State.unlockedBytes at unlocked
    split at unlocked
    · cases unlocked
    · have open_ := (List.mem_filter.mp unlocked).2
      rw [here, locked] at open_
      simp at open_
  exact ⟨spared 1 (by omega) (by omega), spared 2 (by omega) (by omega)⟩

theorem overlay_of_uncarried {s : State} {bs : List WByte} {id : RecordId} {o : Nat}
    (uncarried : carried bs (recordOffset id + o) = none) : s.overlay bs id o = recordByte s.view id o := by
  rw [State.overlay, uncarried]
  rfl

/-- A cue entry whose tag and level are spared keeps them (R158). -/
theorem decodeCue_spared {s : State} {bs : List WByte} {c : Fin 32} (spared : SparesCue bs c)
    (level : (s.cues.get c).level ≤ 7) :
    (decodeCue (s.overlay bs (.cue c)) (s.cues.get c)).tag = (s.cues.get c).tag ∧
      (decodeCue (s.overlay bs (.cue c)) (s.cues.get c)).level = (s.cues.get c).level := by
  unfold decodeCue
  rw [overlay_of_uncarried spared.1, overlay_of_uncarried spared.2]
  refine ⟨rfl, ?_⟩
  show (BitVec.ofNat 8 ((s.cues.get c).level / 256 ^ 0)).toNat % 8 = (s.cues.get c).level
  rw [BitVec.toNat_ofNat]
  omega

/-! ## What is played stands (R113, R122) -/

/-- The cues stand, and what each zone plays, suspends and masks. -/
structure State.LeavesPlay (s t : State) : Prop where
  cues : t.cues = s.cues
  active : ∀ z, (t.zones.get z).active = (s.zones.get z).active
  suspended : ∀ z, (t.zones.get z).stack = (s.zones.get z).stack
  mask : ∀ z, (t.zones.get z).mask = (s.zones.get z).mask

theorem State.LeavesPlay.refl (s : State) : s.LeavesPlay s := ⟨rfl, fun _ => rfl, fun _ => rfl, fun _ => rfl⟩

theorem State.LeavesPlay.trans {s t u : State} (h : s.LeavesPlay t) (k : t.LeavesPlay u) : s.LeavesPlay u :=
  ⟨k.cues.trans h.cues, fun z => (k.active z).trans (h.active z), fun z => (k.suspended z).trans (h.suspended z),
    fun z => (k.mask z).trans (h.mask z)⟩

theorem State.LeavesPlay.ite {s t u : State} {p : Prop} [Decidable p] (h : s.LeavesPlay t) (k : s.LeavesPlay u) :
    s.LeavesPlay (if p then t else u) := by
  split
  · exact h
  · exact k

theorem leavesPlay_foldl {α : Type} {f : State → α → State} (h : ∀ (s : State) x, s.LeavesPlay (f s x)) (l : List α) :
    ∀ s : State, s.LeavesPlay (l.foldl f s) := by
  induction l with
  | nil => exact State.LeavesPlay.refl
  | cons x l ih => exact fun s => (h s x).trans (ih (f s x))

theorem State.LeavesCues.leavesPlay {s t : State} (h : s.LeavesCues t) : s.LeavesPlay t where
  cues := h.2
  active _ := by rw [h.1]
  suspended _ := by rw [h.1]
  mask _ := by rw [h.1]

theorem State.LeavesPlay.holds {s t : State} (h : s.LeavesPlay t) (z : Fin 8) (c : Fin 32) :
    (t.zones.get z).Holds c ↔ (s.zones.get z).Holds c := by
  unfold ZoneRecord.Holds
  rw [h.active, h.suspended]

theorem State.LeavesPlay.keepsCues {s t : State} (h : s.LeavesPlay t) : KeepsCues s t where
  cues sound := by
    have member (c : Fin 32) : t.member c = s.member c := by
      rw [Bool.eq_iff_iff, State.member_iff, State.member_iff, h.cues]
      simp only [h.holds]
    unfold State.CueSound
    simp only [member, h.cues]
    exact sound
  inOrder _ order := by
    rw [State.stackSound_iff] at order ⊢
    exact fun z => (order z).congr (h.active z) (h.suspended z) (h.mask z) fun c _ => by rw [State.cueLevel, h.cues]; rfl

section
variable {s t : State} (h : s.LeavesPlay t)
include h

theorem State.LeavesPlay.list (id : RecordId) : s.LeavesPlay (t.list id) :=
  h.trans (State.LeavesCues.leavesPlay (by simp))

theorem State.LeavesPlay.listIf (b : Bool) (id : RecordId) : s.LeavesPlay (t.listIf b id) :=
  h.trans (State.LeavesCues.leavesPlay (by simp))

theorem State.LeavesPlay.listDirty (id : RecordId) (l : List Nat) : s.LeavesPlay (t.listDirty id l) :=
  h.trans (listDirty_leavesCues t id l).leavesPlay

theorem State.LeavesPlay.raiseEvent (k : EventKind) (o : Nat) (tag : Byte) (r : Nat) :
    s.LeavesPlay (t.raiseEvent k o tag r) := h.trans (raiseEvent_leavesCues t k o tag r).leavesPlay
end

theorem setZone_leavesPlay {s : State} {z : Fin 8} {r : ZoneRecord} (active : r.active = (s.zones.get z).active)
    (suspended : r.stack = (s.zones.get z).stack) (mask : r.mask = (s.zones.get z).mask) : s.LeavesPlay (s.setZone z r) := by
  refine ⟨rfl, fun x => ?_, fun x => ?_, fun x => ?_⟩
  all_goals
    rw [State.setZone_zones, setAt_get]
    split
    · subst x
      assumption
    · rfl

/-- A zone whose timing window changed loses its frame records (R122). -/
theorem afterTiming_leavesPlay (before s : State) : s.LeavesPlay (State.afterTiming before s) := by
  refine leavesPlay_foldl (fun u z => ?_) _ s
  unfold State.followTiming
  refine State.LeavesPlay.ite (.refl u) ((setZone_leavesPlay ?_ ?_ ?_).listIf _ _) <;> rfl

/-! ## Windows, services, segments and zones take their bytes (R156) -/

/-- Windows and services reach the zones only through their timing windows. -/
theorem retireWindows_leavesPlay (s : State) (ws : List (Fin 16)) : s.LeavesPlay (s.retireWindows ws) := by
  have begun (u : State) (w : Fin 16) : u.LeavesCues (u.beginRetiring w) := ⟨rfl, rfl⟩
  exact (((leavesCues_foldl begun ws s).leavesPlay.trans (afterTiming_leavesPlay s _)).trans
    (leavesCues_foldl retireSlots_leavesCues ws _).leavesPlay).trans
      (leavesCues_foldl endRetirement_leavesCues ws _).leavesPlay

theorem actEnable_leavesPlay (s : State) (bs : List WByte) (id : RecordId) {on off : State → State}
    (h : ∀ s : State, s.LeavesPlay (on s)) (k : ∀ s : State, s.LeavesPlay (off s)) :
    s.LeavesPlay (s.actEnable bs id on off) := by
  unfold State.actEnable
  split
  · exact .refl s
  · exact State.LeavesPlay.ite (k s) (h s)

theorem takeWindow_leavesPlay (s : State) (bs : List WByte) (w : Fin 16) : s.LeavesPlay (s.takeWindow bs w) := by
  have copied (u : State) (e : WindowEntry) : u.LeavesPlay (u.setWindow w e) := State.LeavesCues.leavesPlay ⟨rfl, rfl⟩
  have enables (u : State) : u.LeavesPlay (u.enableWindow w) := by
    unfold State.enableWindow State.refuseWindow State.acceptWindow
    repeat' split
    · exact ((State.LeavesPlay.refl u).raiseEvent _ _ _ _).list _
    · exact .refl u
    · exact ((State.LeavesPlay.refl u).raiseEvent _ _ _ _).list _
    · exact ((copied u _).list _).trans (afterTiming_leavesPlay u _)
  have disables (u : State) : u.LeavesPlay (u.disableWindow w) :=
    State.LeavesPlay.ite (retireWindows_leavesPlay u _) (.refl u)
  exact (((copied s _).listDirty _ _).trans (actEnable_leavesPlay _ _ _ enables disables)).listDirty _ _

theorem takeService_leavesPlay (s : State) (bs : List WByte) (v : Fin 8) : s.LeavesPlay (s.takeService bs v) := by
  have copied (u : State) (e : ServiceEntry) : u.LeavesPlay (u.setService v e) := State.LeavesCues.leavesPlay ⟨rfl, rfl⟩
  have listed (u : State) (w : Fin 16) : u.LeavesCues (u.listEnable w) := ⟨rfl, rfl⟩
  have enables (u : State) : u.LeavesPlay (u.enableService v) :=
    State.LeavesPlay.ite (.refl u) ((copied u _).trans (afterTiming_leavesPlay u _))
  have disables (u : State) : u.LeavesPlay (u.disableService v) :=
    State.LeavesPlay.ite ((((copied u _).trans (afterTiming_leavesPlay u _)).trans
      (leavesCues_foldl listed _ _).leavesPlay).trans (retireWindows_leavesPlay _ _)) (.refl u)
  exact (((copied s _).listDirty _ _).trans (actEnable_leavesPlay _ _ _ enables disables)).listDirty _ _

theorem takeSegment_leavesCues (s : State) (bs : List WByte) (g : Fin 12) : s.LeavesCues (s.takeSegment bs g) := by
  unfold State.takeSegment State.actEnable
  dsimp only
  repeat' split
  all_goals simp

theorem takeZone_leavesPlay (s : State) (bs : List WByte) (z : Fin 8) : s.LeavesPlay (s.takeZone bs z) := by
  refine ((setZone_leavesPlay ?_ ?_ ?_).listDirty _ _).trans (afterTiming_leavesPlay s _) <;> rfl

/-- Every record but a cue's leaves what is played. -/
theorem takeRecord_leavesPlay (s : State) (bs : List WByte) {id : RecordId} (other : ∀ c, id ≠ .cue c) :
    s.LeavesPlay (State.takeRecord bs s id) := by
  cases id with
  | window w => exact takeWindow_leavesPlay s bs w
  | service v => exact takeService_leavesPlay s bs v
  | segment g => exact (takeSegment_leavesCues s bs g).leavesPlay
  | zone z => exact takeZone_leavesPlay s bs z
  | cue c => exact absurd rfl (other c)
  | status | accessFault | memoryFault | slot => exact .refl s

/-! ## Cues take their bytes -/

/-- A cue entry takes a write's bytes: an IDLE one any, one that is not only bytes that spare it (R112, R157). -/
theorem takeCue_keepsCues {s : State} {bs : List WByte} {c : Fin 32}
    (spared : (s.cues.get c).state ≠ .idle → SparesCue bs c) : KeepsCues s (s.takeCue bs c) := by
  have copied : KeepsCues s (s.setCue c (decodeCue (s.overlay bs (.cue c)) (s.cues.get c))) := by
    by_cases idle : (s.cues.get c).state = .idle
    · refine ⟨fun sound => setCue_cueSound sound ?_ (fun _ => sound.idle_free idle) (absurd idle) (absurd idle),
        fun sound order => setCue_stackSound order fun ⟨z, holds⟩ => absurd holds ((sound.idle_free idle).2 z)⟩
      exact Nat.lt_succ_iff.mp (Nat.mod_lt _ (by omega))
    · have kept (sound : s.CueSound) := decodeCue_spared (spared idle) (sound.1 c).1
      refine ⟨fun sound => (setCue_keepsCues (kept sound).2 (kept sound).1 (absurd · idle) fun _ => (absurd · idle)).cues sound,
        fun sound order => setCue_stackSound order fun _ => (kept sound).2⟩
  have acts (u : State) (b : Byte) : KeepsCues u (u.actRequest b c) :=
    KeepsCues.ite (startCue_keepsCues u c true) (KeepsCues.ite (stopCue_keepsCues u c) (.refl u))
  unfold State.takeCue
  dsimp only
  refine KeepsCues.listDirty ?_ _ _
  split
  · exact copied.listDirty _ _
  · exact (copied.listDirty _ _).trans (acts _ _)

theorem takeRecord_keepsCues {s : State} {bs : List WByte} {id : RecordId}
    (spared : ∀ c, id = .cue c → (s.cues.get c).state ≠ .idle → SparesCue bs c) :
    KeepsCues s (State.takeRecord bs s id) := by
  by_cases cue : ∃ c, id = .cue c
  · obtain ⟨c, rfl⟩ := cue
    exact takeCue_keepsCues (spared c rfl)
  · exact (takeRecord_leavesPlay s bs fun c here => cue ⟨c, here⟩).keepsCues

/-! ## Only its own request rouses a cue (R114) -/

/-- If the cue was IDLE, it still is. -/
def State.StaysIdle (d : Fin 32) (s t : State) : Prop := (s.cues.get d).state = .idle → (t.cues.get d).state = .idle

section
variable {s t u : State} {d : Fin 32}

theorem State.StaysIdle.refl (d : Fin 32) (s : State) : State.StaysIdle d s s := id

theorem State.StaysIdle.trans (h : State.StaysIdle d s t) (k : State.StaysIdle d t u) : State.StaysIdle d s u := k ∘ h

theorem State.StaysIdle.ite {p : Prop} [Decidable p] (h : State.StaysIdle d s t) (k : State.StaysIdle d s u) :
    State.StaysIdle d s (if p then t else u) := by
  split
  · exact h
  · exact k

theorem staysIdle_foldl {α : Type} {f : State → α → State} (h : ∀ s x, State.StaysIdle d s (f s x)) (l : List α) :
    ∀ s, State.StaysIdle d s (l.foldl f s) := by
  induction l with
  | nil => exact State.StaysIdle.refl d
  | cons x l ih => exact fun s => (h s x).trans (ih (f s x))

theorem State.StaysIdle.congr (h : State.StaysIdle d s t) (cues : u.cues = t.cues) : State.StaysIdle d s u :=
  h.trans fun idle => by rw [cues, idle]

/-- An entry replaced is another's, or does not leave IDLE. -/
theorem setCue_staysIdle {c : Fin 32} {e : CueEntry} (h : c = d → (s.cues.get c).state = .idle → e.state = .idle) :
    State.StaysIdle d s (s.setCue c e) := by
  intro idle
  rw [State.setCue_cues, setAt_get]
  split
  · next here => exact h here (here ▸ idle)
  · exact idle
end

theorem endCheck_staysIdle (s : State) (c d : Fin 32) (r : CueReason) : State.StaysIdle d s (s.endCheck c r) := by
  unfold State.endCheck
  refine State.StaysIdle.ite ((setCue_staysIdle fun _ _ => ?_).congr (raiseEvent_leavesCues _ _ _ _ _).2) (.refl d s)
  rfl

theorem dropWaits_staysIdle (s : State) (c d : Fin 32) : State.StaysIdle d s (s.dropWaits c) := by
  unfold State.dropWaits
  refine (setCue_staysIdle fun _ => ?_).congr (State.listIf_cues _ _ _)
  exact id

theorem startCue_staysIdle {c d : Fin 32} (other : c ≠ d) (s : State) (host : Bool) : State.StaysIdle d s (s.startCue c host) := by
  have refused (r : CueReason) : State.StaysIdle d s (s.refuseStart c r) :=
    (setCue_staysIdle fun here => absurd here other).congr
      ((raiseEvent_leavesCues _ _ _ _ _).2.trans (State.listIf_cues _ _ _))
  have cancelled (u : State) (x : Fin 32) : State.StaysIdle d u (u.cancelIfQueued x) :=
    State.StaysIdle.ite ((dropWaits_staysIdle u x d).trans (endCheck_staysIdle _ x d _)) (.refl d u)
  unfold State.startCue
  split
  · exact setCue_staysIdle fun here => absurd here other
  · exact State.StaysIdle.ite ((refused _).trans (staysIdle_foldl cancelled _ _)) (refused _)

theorem stopCue_staysIdle {c d : Fin 32} (other : c ≠ d) (s : State) : State.StaysIdle d s (s.stopCue c) := by
  have cleared (e : CueEntry) :
      State.StaysIdle d s ((((List.finRange 8).foldl (State.dropStack c) s).setCue c e).list (.cue c)) := by
    have emptied := (State.StaysIdle.refl d s).congr (dropStacks_cues c (List.finRange 8) s)
    exact (emptied.trans (setCue_staysIdle fun here => absurd here other)).congr (State.list_cues _ _)
  unfold State.stopCue
  dsimp only
  split
  · exact .refl d s
  · exact .refl d s
  · exact (cleared _).trans (endCheck_staysIdle _ c d _)
  · exact State.StaysIdle.ite (cleared _) ((cleared _).trans (endCheck_staysIdle _ c d _))

theorem takeCue_staysIdle {c d : Fin 32} (other : c ≠ d) (s : State) (bs : List WByte) :
    State.StaysIdle d s (s.takeCue bs c) := by
  have acts (u : State) (b : Byte) : State.StaysIdle d u (u.actRequest b c) :=
    State.StaysIdle.ite (startCue_staysIdle other u true) (State.StaysIdle.ite (stopCue_staysIdle other u) (.refl d u))
  have listed (u : State) (l : List Nat) : (u.listDirty (.cue c) l).cues = u.cues := (listDirty_leavesCues u _ l).2
  have copied : State.StaysIdle d s (s.setCue c (decodeCue (s.overlay bs (.cue c)) (s.cues.get c))) :=
    setCue_staysIdle fun here => absurd here other
  unfold State.takeCue
  dsimp only
  refine State.StaysIdle.congr ?_ (listed _ _)
  split
  · exact copied.congr (listed _ _)
  · exact (copied.congr (listed _ _)).trans (acts _ _)

theorem takeRecord_staysIdle {id : RecordId} {d : Fin 32} (other : id ≠ .cue d) (s : State) (bs : List WByte) :
    State.StaysIdle d s (State.takeRecord bs s id) := by
  by_cases cue : ∃ c, id = .cue c
  · obtain ⟨c, rfl⟩ := cue
    exact takeCue_staysIdle (fun here => other (congrArg _ here)) s bs
  · exact (State.StaysIdle.refl d s).congr (takeRecord_leavesPlay s bs fun c here => cue ⟨c, here⟩).cues

/-! ## The whole write and the resets (R156, R166, R167) -/

theorem recordsWritten_nodup (s : State) (m : Fin 16) (a : Access) : (s.recordsWritten m a).Nodup := by
  unfold State.recordsWritten
  split
  · exact List.nodup_nil
  · exact (List.nodup_dedup _).filter _

/-- Records take their bytes one after another, each once: no cue is roused before its own record takes its. -/
theorem takeRecords_keepsCues {bs : List WByte} {ids : List RecordId} (once : ids.Nodup) {s : State}
    (spared : ∀ c, .cue c ∈ ids → (s.cues.get c).state ≠ .idle → SparesCue bs c) :
    KeepsCues s (ids.foldl (State.takeRecord bs) s) := by
  induction ids generalizing s with
  | nil => exact .refl s
  | cons id ids ih =>
    obtain ⟨new, once⟩ := List.nodup_cons.mp once
    refine (takeRecord_keepsCues fun c here => spared c (here ▸ List.mem_cons_self)).trans (ih once fun c member live => ?_)
    have other : id ≠ .cue c := fun here => new (here ▸ member)
    exact spared c (List.mem_cons_of_mem id member) (mt (takeRecord_staysIdle other s bs) live)

/-- With every cue IDLE and waiting nowhere and every zone record at its reset value, nothing is left to promise. -/
theorem keepsCues_of_reset {t : State} (s : State) (zones : t.zones = Vector.replicate 8 zoneReset)
    (cues : t.cues = Vector.replicate 32 cueReset) : KeepsCues s t := by
  have zone (z : Fin 8) : t.zones.get z = zoneReset := by rw [zones, Vector.get_replicate]
  have cue (c : Fin 32) : t.cues.get c = cueReset := by rw [cues, Vector.get_replicate]
  refine ⟨fun _ => ⟨fun c => ?_, fun c d live => ?_⟩, fun _ _ => t.stackSound_iff.mpr fun z => ?_⟩
  · rw [State.member_eq_false_iff, cue]
    refine ⟨by decide, fun _ => ⟨rfl, fun z => ?_⟩, fun live => absurd rfl live⟩
    rw [zone]
    rintro (⟨a, playing, -⟩ | ⟨x, suspended, -⟩)
    · cases playing
    · cases suspended
  · rw [cue] at live
    exact absurd rfl live
  · rw [zone]
    exact ⟨⟨nofun, .nil, nofun⟩, fun _ => rfl, rfl⟩

theorem hardReset_keepsCues (s : State) : KeepsCues s s.hardReset := keepsCues_of_reset s rfl rfl

theorem softReset_keepsCues (s : State) : KeepsCues s s.softReset :=
  (keepsCues_of_reset s rfl rfl).trans (leavesCues_foldl reclassify_leavesCues _ (s.softValues.startWriteOut true)).keepsCues

theorem treatControlWrite_keepsCues (s : State) (m : Fin 16) (a : Access) : KeepsCues s (s.treatControlWrite m a) := by
  have charged := chargeProtected_leavesCues s m a
  have performed (be : List Enables) : KeepsCues s
      ((s.chargeProtected m a).performWrite m a be (s.recordsWritten m a) (s.keptBytes m a)) := by
    have taken := takeRecords_keepsCues (s := s.chargeProtected m a) (recordsWritten_nodup s m a) (bs := s.keptBytes m a)
      fun c _ live => keptBytes_spare m a (by rwa [charged.2] at live)
    have issued (u : State) (ids : List RecordId) : u.LeavesCues (u.issueMasked m a be ids) := ⟨rfl, rfl⟩
    exact ((charged.keepsCues.trans taken).trans (takeRequest_keepsCues _ _ m)).trans (issued _ _).keepsCues
  unfold State.treatControlWrite
  exact KeepsCues.ite (State.LeavesCues.keepsCues ⟨rfl, rfl⟩)
    (KeepsCues.ite ((performed _).trans (softReset_keepsCues _)) (performed _))

end Sys2Proof.Machine
end

section
/-! The promises about cues and zone stacks kept by every step: what the part does of itself, each command and the tick (R49,
R113, R115, R127 to R129). -/

namespace Sys2Proof.Machine

/-! ## What the part does of itself -/

theorem treat_keepsCues (s : State) (m : Fin 16) : KeepsCues s (s.treat m) := by
  have window (a : Access) (h : WinHit) : KeepsCues s (s.treatWindow m a h) := by
    unfold State.treatWindow
    split
    · exact (treatUplinkWrite_leavesCues _ _ _ _).keepsCues
    · exact (treatUplinkRead_leavesCues _ _ _ _).keepsCues
    · exact (sendThrough_leavesCues _ _ _ _ _ _).keepsCues
    · exact (treatDownlinkRead_leavesCues _ _ _ _).keepsCues
    · exact (sendThrough_leavesCues _ _ _ _ _ _).keepsCues
    · exact treatProgramRead_keepsCues _ _ _ _
  unfold State.treat
  repeat' split
  · exact window _ _
  · exact (passUnchanged_leavesCues _ _ _).keepsCues
  · exact (treatControlRead_leavesCues _ _ _).keepsCues
  · exact treatControlWrite_keepsCues _ _ _
  · exact .refl s

theorem popDue_leavesCues (s : State) : s.LeavesCues s.popDue := ⟨rfl, rfl⟩

theorem popDue_actDue_keepsCues (s : State) (d : Due) : KeepsCues s (s.popDue.actDue d) := by
  cases d with
  | take m => exact ((popDue_leavesCues s).trans (takeAccess_leavesCues _ m)).keepsCues
  | hand m => exact (popDue_leavesCues s).keepsCues.trans (treat_keepsCues _ m)

theorem doDue_keepsCues (s : State) (d : Due) : KeepsCues s (s.doDue d) :=
  (popDue_actDue_keepsCues s d).trans ((settle_leavesCues _).trans (giveNotices_leavesCues _)).keepsCues

theorem workOff_keepsCues {own : State → Due → Option State} (h : ∀ s d t, own s d = some t → KeepsCues s t) :
    ∀ (fuel : Nat) (s : State), KeepsCues s (State.workOff own fuel s)
  | 0, s => .refl s
  | fuel + 1, s => by
    unfold State.workOff
    split
    · exact .refl s
    · split
      · next e => exact h _ _ _ e
      · exact (doDue_keepsCues s _).trans (workOff_keepsCues h fuel _)

theorem catchUpTo_keepsCues {own : State → Due → Option State} (h : ∀ s d t, own s d = some t → KeepsCues s t) (s : State) :
    KeepsCues s (s.catchUpTo own) := (giveNotices_leavesCues s).keepsCues.trans (workOff_keepsCues h _ _)

theorem catchUp_keepsCues (s : State) : KeepsCues s s.catchUp := catchUpTo_keepsCues (fun _ _ _ own => by cases own) s

/-! ## The commands that stand for a due item -/

theorem ownTaking_keepsCues (m : Fin 16) (s : State) (d : Due) (t : State) (h : State.ownTaking m s d = some t) :
    KeepsCues s t := by
  unfold State.ownTaking at h
  split at h
  · obtain rfl := Option.some.inj h
    exact popDue_actDue_keepsCues s (.take m)
  · cases h

theorem ownHanding_keepsCues {m : Fin 16} {f : State → Access → Cls → Option State}
    (k : ∀ s a c t, f s a c = some t → KeepsCues s t) (s : State) (d : Due) (t : State)
    (h : State.ownHanding m f s d = some t) : KeepsCues s t := by
  unfold State.ownHanding at h
  split at h
  · split at h
    · exact (popDue_leavesCues s).keepsCues.trans (k _ _ _ _ h)
    · cases h
  · cases h

theorem asWindow_keepsCues (s : State) (m : Fin 16) (r : Role) (d : Dir) {f : State → Access → WinHit → State}
    (h : ∀ s a hit, KeepsCues s (f s a hit)) : KeepsCues s (s.asWindow m r d f) := by
  refine catchUpTo_keepsCues (ownHanding_keepsCues fun s a c t e => ?_) s
  cases c with
  | window hit =>
    dsimp only at e
    split at e
    · obtain rfl := Option.some.inj e
      exact h s a hit
    · cases e
  | control | unwindowed => cases e

theorem asControl_keepsCues (s : State) (m : Fin 16) (d : Dir) (p : State → Access → Bool) {f : State → Access → State}
    (h : ∀ s a, KeepsCues s (f s a)) : KeepsCues s (s.asControl m d p f) := by
  refine catchUpTo_keepsCues (ownHanding_keepsCues fun s a c t e => ?_) s
  cases c with
  | control =>
    dsimp only at e
    split at e
    · obtain rfl := Option.some.inj e
      exact h s a
    · cases e
  | window | unwindowed => cases e

theorem asUnwindowed_leavesCues (s : State) (m : Fin 16) :
    KeepsCues s (s.asUnwindowed m fun s a => s.passUnchanged m a) := by
  refine catchUpTo_keepsCues (ownHanding_keepsCues fun s a c t e => ?_) s
  cases c with
  | unwindowed =>
    obtain rfl := Option.some.inj e
    exact (passUnchanged_leavesCues s m a).keepsCues
  | window | control => cases e

/-! ## Every command and the tick -/

theorem done_keepsCues {s t u : State} (h : KeepsCues s u) (e : done u = .next t) : KeepsCues s t := by
  obtain rfl : u.settle = t := by injection e
  exact h.trans (settle_leavesCues u).keepsCues

theorem done_catchUp_keepsCues {s t u : State} (h : KeepsCues s.catchUp u) (e : done u = .next t) : KeepsCues s t :=
  done_keepsCues ((catchUp_keepsCues s).trans h) e

/-- A command that leaves the zones and cues. -/
theorem done_catchUp_leavesCues {s t u : State} (h : s.catchUp.LeavesCues u) (e : done u = .next t) : KeepsCues s t :=
  done_catchUp_keepsCues h.keepsCues e

theorem present_leavesCues (s : State) (a : Access) : s.LeavesCues (s.present a) := ⟨rfl, rfl⟩

theorem execAccessRequest_keepsCues (a : Access) (s t : State) (e : execAccessRequest a s = .next t) : KeepsCues s t := by
  unfold execAccessRequest at e
  split at e
  · exact done_catchUp_leavesCues (present_leavesCues _ a) e
  · cases e

theorem execMapFetchComplete_keepsCues (ok : Bool) (entry : Word) (s t : State)
    (e : execMapFetchComplete ok entry s = .next t) : KeepsCues s t := by
  refine done_catchUp_leavesCues ?_ e
  split
  · exact .refl _
  · exact completeFetch_leavesCues _ _ _ _

theorem execImageWriteOutBurstAnswer_keepsCues (k : Fin 80) (ok : Bool) (s t : State)
    (e : execImageWriteOutBurstAnswer k ok s = .next t) : KeepsCues s t := by
  refine done_catchUp_leavesCues ?_ e
  repeat' split
  · exact .refl _
  · exact answerWriteOut_leavesCues _ _ _ _
  · exact .refl _

theorem execWriteBackBurstAnswer_keepsCues (k : Fin 2) (ok : Bool) (s t : State)
    (e : execWriteBackBurstAnswer k ok s = .next t) : KeepsCues s t := by
  refine done_catchUp_leavesCues ?_ e
  repeat' split
  · exact .refl _
  · exact answerWriteBack_leavesCues _ _ _ _
  · exact .refl _

theorem execDepartureNotice_keepsCues (g : Fin 12) (s t : State) (e : execDepartureNotice g s = .next t) : KeepsCues s t :=
  done_keepsCues (KeepsCues.ite ((takeDepartures_leavesCues s _).trans (takeDeparture_leavesCues _ g)).keepsCues
    (catchUp_keepsCues s)) e

theorem changeLine_leavesCues (s : State) (high : Bool) : s.LeavesCues (s.changeLine high) := by
  unfold State.changeLine
  repeat' split
  all_goals exact ⟨rfl, rfl⟩

theorem exec_keepsCues (c : Instr) (s t : State) (e : exec c s = .next t) : KeepsCues s t := by
  cases c with
  | hardReset => exact done_keepsCues (hardReset_keepsCues s) e
  | resetRelease => exact done_catchUp_leavesCues (release_leavesCues _ _ _ _) e
  | accessRequest a => exact execAccessRequest_keepsCues a s t e
  | accessTakenForService m => exact done_keepsCues (catchUpTo_keepsCues (ownTaking_keepsCues m) s) e
  | unwindowedAccess m => exact done_keepsCues (asUnwindowed_leavesCues s m) e
  | uplinkWrite m =>
    exact done_keepsCues (asWindow_keepsCues s m _ _ fun s a h => (treatUplinkWrite_leavesCues s m a h).keepsCues) e
  | uplinkRead m =>
    exact done_keepsCues (asWindow_keepsCues s m _ _ fun s a h => (treatUplinkRead_leavesCues s m a h).keepsCues) e
  | downlinkWrite m | programWrite m =>
    exact done_keepsCues (asWindow_keepsCues s m _ _ fun s a h =>
      (sendThrough_leavesCues s m a h .plain false).keepsCues) e
  | downlinkRead m =>
    exact done_keepsCues (asWindow_keepsCues s m _ _ fun s a h => (treatDownlinkRead_leavesCues s m a h).keepsCues) e
  | programRead m =>
    exact done_keepsCues (asWindow_keepsCues s m _ _ fun s a h => treatProgramRead_keepsCues s m a h) e
  | controlRegionRead m =>
    exact done_keepsCues (asControl_keepsCues s m _ _ fun s a => (treatControlRead_leavesCues s m a).keepsCues) e
  | controlRegionWrite m | windowEnable m | windowDisable m | serviceEnable m | serviceDisable m | segmentEnable m
  | segmentDisable m | zoneTimingServiceWrite m | cueStart m | cueStop m | latchSet m | latchClear m | accessFaultClear m
  | memoryFaultClear m | eventConsumerIndexWrite m | missLimitWrite m | eventEnableMaskWrite m | softReset m =>
    exact done_keepsCues (asControl_keepsCues s m .write _ fun s a => treatControlWrite_keepsCues s m a) e
  | memoryAccessAnswer m r =>
    exact done_catchUp_leavesCues (withIssued_leavesCues _ m r fun a i => answerAccess_leavesCues _ m a i r) e
  | clipReadAnswer m r =>
    exact done_catchUp_leavesCues (withIssued_leavesCues _ m r fun a i => answerClip_leavesCues _ m a i r) e
  | talkthroughSourceAnswer m r =>
    exact done_catchUp_leavesCues (withIssued_leavesCues _ m r fun a i => answerSource_leavesCues _ m a i r) e
  | deadlineExpiry n =>
    exact done_catchUp_keepsCues (KeepsCues.ite (startFlush_leavesCues _ n .deadline).keepsCues (.refl _)) e
  | flushBurstAnswer n k ok => exact done_catchUp_leavesCues (answerBurst_leavesCues _ n k ok) e
  | translationQueueJoin => exact done_catchUp_leavesCues (joinFromWait_leavesCues _) e
  | mapFetchIssue => exact done_catchUp_leavesCues (issueFetch_leavesCues _) e
  | mapFetchComplete ok entry => exact execMapFetchComplete_keepsCues ok entry s t e
  | activityTimerExpiry g =>
    exact done_catchUp_keepsCues (KeepsCues.ite (stall_leavesCues _ g).keepsCues (.refl _)) e
  | segmentExclusionHandover g => exact done_catchUp_leavesCues (takeHandover_leavesCues _ g) e
  | departureNotice g => exact execDepartureNotice_keepsCues g s t e
  | incidentLineChange high => exact done_catchUp_leavesCues (changeLine_leavesCues _ high) e
  | qualificationTimerExpiry => exact done_catchUp_keepsCues (KeepsCues.ite (qualify_keepsCues _) (.refl _)) e
  | imageWriteOutBurstAnswer k ok => exact execImageWriteOutBurstAnswer_keepsCues k ok s t e
  | writeBackStart => exact done_catchUp_leavesCues (startWriteBack_leavesCues _) e
  | writeBackBurstAnswer k ok => exact execWriteBackBurstAnswer_keepsCues k ok s t e
  | eventWriteIssue => exact done_catchUp_leavesCues (issueEvent_leavesCues _) e
  | eventWriteAnswer ok => exact done_catchUp_leavesCues (answerEvent_leavesCues _ ok) e

theorem tick_keepsCues (s : State) : KeepsCues s s.tick := by
  have before : KeepsCues s s.catchUp.settle := (catchUp_keepsCues s).trans (settle_leavesCues _).keepsCues
  unfold State.tick
  generalize s.catchUp.settle = u at before
  have passes : u.LeavesCues { u with timebase := u.timebase + 1 } := ⟨rfl, rfl⟩
  exact KeepsCues.ite before (before.trans passes.keepsCues)

/-- Settles O58: a step is a tick or a command taken off the queue, and both keep the two promises. -/
theorem cuesKept : Obligations.CuesKept := by
  intro s t e sound
  have kept : KeepsCues s t := by
    unfold step at e
    split at e
    · obtain rfl : s.tick = t := by injection e
      exact tick_keepsCues s
    · next rest _ =>
      have taken : s.LeavesCues { s with pending := rest } := ⟨rfl, rfl⟩
      exact taken.keepsCues.trans (exec_keepsCues _ _ _ e)
  exact ⟨kept.cues sound, kept.inOrder sound⟩

end Sys2Proof.Machine
end

section
/-! A segment's PROGRAM read judged against its zone (R124, R125, R132, R133). -/

namespace Sys2Proof.Machine

section
variable {s : State} {m : Fin 16} {a : Access} {hit : WinHit} {g : Fin 12} {z : Fin 8}

/-! ## The judgement, by what the zone's timing window is -/

/-- Without break-in a programme read is not mixed (R132). -/
theorem judgeProgram_unmixed (plain : (s.services.get hit.service).breakIn = false) :
    s.judgeProgram g hit = (.plain, s) := by
  simp [State.judgeProgram, plain]

/-- Another window than the timing window takes the current record (R132). -/
theorem judgeProgram_aside (breakIn : (s.services.get hit.service).breakIn = true)
    (other : s.timingWindow (s.segments.get g).zone ≠ some hit.window) :
    s.judgeProgram g hit = (treatmentOf (s.zones.get (s.segments.get g).zone).current, s) := by
  simp [State.judgeProgram, breakIn, other]

theorem judgeProgram_timing (breakIn : (s.services.get hit.service).breakIn = true)
    (timing : s.timingWindow (s.segments.get g).zone = some hit.window) :
    s.judgeProgram g hit = s.judgeTiming g (s.segments.get g).zone hit := by
  simp [State.judgeProgram, breakIn, timing]

/-! ## The judgement of a read of the timing window (R124, R125) -/

/-- The first read forms the zone's record. -/
theorem judgeTiming_first (fresh : (s.zones.get z).current = none) : s.judgeTiming g z hit =
    (.mix (s.recordFor z hit.frame).mix,
      (s.setZone z { s.zones.get z with current := some (s.recordFor z hit.frame), previous := none }).list (.zone z)) := by
  simp [State.judgeTiming, fresh]

/-- A later read is judged by how many frames it is ahead of the zone's record. -/
theorem judgeTiming_record {c : FrameRecord} {frames d : Nat} (current : (s.zones.get z).current = some c)
    (size : frames = (s.windows.get hit.window).frames) (ahead : d = (hit.frame + frames - c.frame % frames) % frames) :
    s.judgeTiming g z hit =
      if d = 0 then (.mix c.mix, s)
      else if d = frames - 1 then (treatmentOf (s.zones.get z).previous, s)
      else if d ≤ frames / 2 - 1 then
        (treatmentOf ((State.advanceBy z frames d s).zones.get z).current, State.advanceBy z frames d s)
      else (.plain, s.countLag g) := by
  subst size ahead
  unfold State.judgeTiming
  dsimp only
  rw [current]

/-! ## What a read is mixed with (R133) -/

theorem FrameRecord.mix_eq (f : FrameRecord) :
    f.mix = { clip := if f.cue = none then none else some f.clip, gd := f.gd, gi := f.gi } := by
  unfold FrameRecord.mix
  cases f.cue <;> rfl

/-- A segment's PROGRAM read goes on as it was judged. -/
theorem programRead_sends {t : Treatment} {u : State} (turn : s.Turn m a (.window hit)) (role : hit.role = .program)
    (dir : a.dir = .read) (segment : segOf m = some g) (judged : s.popDue.judgeProgram g hit = (t, u)) :
    exec (.programRead m) s = .next (u.sendThrough m a hit t false).settle := by
  rw [exec_programRead turn role dir, State.treatProgramRead, segment]
  dsimp only
  rw [judged]

end

/-- Settles O41: each condition picks its branch of the judgement, and the read goes on as it was judged. -/
theorem programReadJudged : Obligations.ProgramReadJudged := by
  intro s m a hit g turn role dir segment s0 z r frames sent mixed mixedFrom
  have sends {t : Treatment} {u : State} (judged : s0.judgeProgram g hit = (t, u)) : sent u t :=
    programRead_sends turn role dir segment judged
  have mixes {f : FrameRecord} {u : State} (judged : s0.judgeProgram g hit = (.mix f.mix, u)) : mixed u f := by
    rw [f.mix_eq] at judged
    exact sends judged
  have mixesFrom {f : Option FrameRecord} {u : State} (judged : s0.judgeProgram g hit = (treatmentOf f, u)) :
      mixedFrom u f := by
    cases f with
    | none => exact sends judged
    | some f => exact mixes judged
  refine ⟨fun plain => sends (judgeProgram_unmixed plain), fun breakIn other => mixesFrom (judgeProgram_aside breakIn other),
    fun breakIn timing => ?_⟩
  have judges : s0.judgeProgram g hit = s0.judgeTiming g z hit := judgeProgram_timing breakIn timing
  refine ⟨fun fresh => mixes (judges.trans (judgeTiming_first fresh)), ?_⟩
  intro c current d e
  have judged := judges.trans (judgeTiming_record (d := d) current rfl rfl)
  split
  · next same => exact mixes (judged.trans (if_pos same))
  next ahead =>
  replace judged := judged.trans (if_neg ahead)
  split
  · next last => exact mixesFrom (judged.trans (if_pos last))
  next older =>
  replace judged := judged.trans (if_neg older)
  split
  · next near => exact mixesFrom (judged.trans (if_pos near))
  · next far => exact sends (judged.trans (if_neg far))

end Sys2Proof.Machine
end

section
/-! Changes of several zone records at once, and the timing windows of zones (R121, R122, R178). -/

namespace Sys2Proof.Machine

/-! ## A sweep over the zones (log 42) -/

/-- The state with other zone records and another write-back list. -/
def State.withZones (s : State) (zones : Vector ZoneRecord 8) (listed : List ListedRecord) : State :=
  { s with zones := zones, writeBackList := listed }

theorem setZone_self (s : State) (z : Fin 8) : s.setZone z (s.zones.get z) = s := by
  have same : setAt s.zones z (s.zones.get z) = s.zones := Vector.set_getElem_self ..
  unfold State.setZone
  rw [same]

section
variable {s : State} {f : State → Fin 8 → State} {r : Fin 8 → ZoneRecord} {lists : Fin 8 → Bool}

theorem foldl_zones_on (h : ∀ Z L z, Z.get z = s.zones.get z →
      f (s.withZones Z L) z = ((s.withZones Z L).setZone z (r z)).listIf (lists z) (.zone z)) {zs : List (Fin 8)} (once : zs.Nodup) :
    ∀ Z L, (∀ z ∈ zs, Z.get z = s.zones.get z) → zs.foldl f (s.withZones Z L) =
      s.withZones (zs.foldl (fun Z z => setAt Z z (r z)) Z)
        ((zs.filter lists).foldl (fun l z => addListed (.zone z) [] l) L) := by
  induction zs with
  | nil => exact fun _ _ _ => rfl
  | cons z zs ih =>
    intro Z L fresh
    obtain ⟨new, once⟩ := List.nodup_cons.mp once
    have step : f (s.withZones Z L) z =
        s.withZones (setAt Z z (r z)) (if lists z then addListed (.zone z) [] L else L) := by
      rw [h Z L z (fresh z List.mem_cons_self), State.listIf]
      split <;> rfl
    rw [List.foldl_cons, step, ih once _ _ fun x member => ?_, List.foldl_cons, List.filter_cons]
    · split <;> rfl
    · have other : z ≠ x := fun here => new (here ▸ member)
      rw [setAt_get, if_neg other]
      exact fresh x (List.mem_cons_of_mem z member)

theorem foldl_setAt_get (zs : List (Fin 8)) (x : Fin 8) : ∀ Z : Vector ZoneRecord 8,
    (zs.foldl (fun Z z => setAt Z z (r z)) Z).get x = if x ∈ zs then r x else Z.get x := by
  induction zs with
  | nil => exact fun _ => rfl
  | cons z zs ih =>
    intro Z
    rw [List.foldl_cons, ih, setAt_get]
    by_cases later : x ∈ zs
    · simp [later]
    · by_cases here : z = x
      · simp [here]
      · simp [later, here, Ne.symm here]

/-- A sweep that replaces each zone's record, as it was before, and lists those of some, changes only that. -/
theorem foldl_zones (h : ∀ Z L z, Z.get z = s.zones.get z →
      f (s.withZones Z L) z = ((s.withZones Z L).setZone z (r z)).listIf (lists z) (.zone z)) :
    ∃ Z : Vector ZoneRecord 8, (∀ z, Z.get z = r z) ∧ (List.finRange 8).foldl f s =
      s.withZones Z (((List.finRange 8).filter lists).foldl (fun l z => addListed (.zone z) [] l) s.writeBackList) := by
  refine ⟨_, fun z => ?_, foldl_zones_on h (List.nodup_finRange 8) s.zones s.writeBackList fun _ _ => rfl⟩
  rw [foldl_setAt_get, if_pos (List.mem_finRange z)]

end

/-! ## Timing windows (R122) -/

theorem timingWindow_eq_some_iff (s : State) (z : Fin 8) (w : Fin 16) :
    let v := (s.zones.get z).timing
    let fits (x : Fin 16) : Prop := (s.windows.get x).enable = true ∧ (s.windows.get x).role = some .program ∧
      (s.windows.get x).service = v
    s.timingWindow z = some w ↔ (s.services.get v).enable = true ∧ (s.services.get v).program = true ∧
      (s.services.get v).breakIn = true ∧ fits w ∧ ∀ x, x < w → ¬fits x := by
  intro v fits
  have fitting (x : Fin 16) : ((s.windows.get x).enable && (s.windows.get x).role == some .program &&
      (s.windows.get x).service == v) = true ↔ fits x := by simp [fits, and_assoc]
  unfold State.timingWindow
  dsimp only
  split
  · next on =>
    obtain ⟨⟨enable, program⟩, breakIn⟩ : ((s.services.get v).enable = true ∧ (s.services.get v).program = true) ∧
        (s.services.get v).breakIn = true := by simpa using on
    rw [find?_finRange_eq_some_iff, fitting]
    simp only [enable, program, breakIn, true_and]
    exact and_congr_right fun _ => forall_congr' fun x => imp_congr_right fun _ => not_congr (fitting x)
  · next off =>
    refine iff_of_false nofun fun ⟨enable, program, breakIn, _⟩ => off ?_
    simp [v, enable, program, breakIn]

/-- The timing window looks only at the zone's timing service, the services and the windows. -/
theorem timingWindow_withZones {s : State} {Z : Vector ZoneRecord 8} {L : List ListedRecord} {z : Fin 8}
    (same : Z.get z = s.zones.get z) : (s.withZones Z L).timingWindow z = s.timingWindow z := by
  have zone : (s.withZones Z L).zones.get z = s.zones.get z := same
  unfold State.timingWindow
  rw [zone]
  rfl

/-- The zone's record after its timing window was judged. -/
def State.retimed (before s : State) (z : Fin 8) : ZoneRecord :=
  if s.timingWindow z = before.timingWindow z then s.zones.get z
  else { s.zones.get z with current := none, previous := none }

/-- The zone loses a frame record, as its timing window is another than before. -/
def State.losesRecord (before s : State) (z : Fin 8) : Bool :=
  s.timingWindow z != before.timingWindow z && ((s.zones.get z).current.isSome || (s.zones.get z).previous.isSome)

theorem followTiming_withZones (before s : State) (Z : Vector ZoneRecord 8) (L : List ListedRecord) (z : Fin 8)
    (same : Z.get z = s.zones.get z) : State.followTiming before (s.withZones Z L) z =
      ((s.withZones Z L).setZone z (State.retimed before s z)).listIf (State.losesRecord before s z) (.zone z) := by
  have zone : (s.withZones Z L).zones.get z = s.zones.get z := same
  unfold State.followTiming State.retimed State.losesRecord
  dsimp only
  rw [timingWindow_withZones same, zone]
  split
  · next stays =>
    rw [← zone, setZone_self, stays]
    simp [State.listIf]
  · next moves =>
    congr 1
    simp [moves]

/-- The zones whose timing window is another than before lose their frame records, and nothing else changes. -/
theorem afterTiming_eq (before s : State) : ∃ Z : Vector ZoneRecord 8, (∀ z, Z.get z = State.retimed before s z) ∧
    State.afterTiming before s = s.withZones Z (((List.finRange 8).filter (State.losesRecord before s)).foldl
      (fun l z => addListed (.zone z) [] l) s.writeBackList) :=
  foldl_zones (followTiming_withZones before s)

/-! ## A service entry that takes a write's bytes (R178) -/

section
variable {s : State} {bs : List WByte} {v : Fin 8} {b : Byte}

theorem enableService_enabled (on : (s.services.get v).enable = true) : s.enableService v = s := if_pos on

theorem enableService_disabled (off : (s.services.get v).enable = false) : s.enableService v =
    State.afterTiming s (s.setService v { s.services.get v with enable := true }) := if_neg (by simp [off])

theorem disableService_disabled (off : (s.services.get v).enable = false) : s.disableService v = s := if_neg (by simp [off])

/-- However it was, a service is enabled after a write of enable 1. -/
theorem enableService_enable (s : State) (v : Fin 8) : ((s.enableService v).services.get v).enable = true := by
  cases on : (s.services.get v).enable with
  | true => rwa [enableService_enabled on]
  | false =>
    rw [enableService_disabled on, afterTiming_services]
    simp

theorem takeService_uncarried (h : carried bs (recordOffset (.service v)) = none) :
    s.takeService bs v = s.serviceCopied bs v := by
  rw [takeService_eq, h]

/-- An enable byte other than 0 enables, and one that is not 1 is written back. -/
theorem takeService_on (h : carried bs (recordOffset (.service v)) = some b) (on : b ≠ 0) :
    let u := (s.serviceCopied bs v).enableService v
    s.takeService bs v = if b = 1 then u else u.listBytes (.service v) [0] := by
  rw [takeService_eq, h]
  dsimp only
  rw [if_neg on, enableService_enable]
  rfl

theorem takeService_off (h : carried bs (recordOffset (.service v)) = some 0)
    (disabled : (s.services.get v).enable = false) : s.takeService bs v = s.serviceCopied bs v := by
  have copied : ((s.serviceCopied bs v).services.get v).enable = false := by
    rw [serviceCopied_entry]
    exact disabled
  rw [takeService_eq, h]
  dsimp only
  rw [if_pos rfl, disableService_disabled copied, copied]
  rfl

end

/-- Settles O50: an enable byte that the copy already agrees with changes nothing, any other moves the timing windows, after
which one sweep over the zones drops the frame records. -/
theorem timingWindowsFollow : Obligations.TimingWindowsFollow := by
  refine ⟨fun s bs v => ?_, fun _ _ _ => rfl, timingWindow_eq_some_iff, fun before s => ?_⟩
  · intro raw old e s2 held ends
    have entry : s2.services.get v = e := serviceCopied_entry s bs v
    refine ⟨takeService_uncarried, takeService_off, fun b h on => ?_⟩
    have taken : ends (held b (s2.enableService v)) := takeService_on h on
    refine ⟨fun enabled => ?_, fun disabled => ?_⟩
    · rwa [enableService_enabled (by rw [entry]; exact enabled)] at taken
    · rwa [enableService_disabled (by rw [entry]; exact disabled), entry] at taken
  · intro u loses
    obtain ⟨Z, records, swept⟩ := afterTiming_eq before s
    have after : u = s.withZones Z _ := swept
    refine ⟨?_, fun z => ?_⟩
    · rw [after]
      rfl
    · rw [after]
      exact records z

end Sys2Proof.Machine
end

section
/-! START and STOP requests to a cue, and its end (R114 to R120). -/

namespace Sys2Proof.Machine

section
variable {s : State} {bs : List WByte} {c : Fin 32} {b : Byte}

/-! ## A cue entry that takes a write's bytes (R112, R158) -/

/-- The state after a cue's copy has taken a write's bytes, before the request acts (R158, R159). -/
def State.cueCopied (s : State) (bs : List WByte) (c : Fin 32) : State :=
  let raw := s.overlay bs (.cue c)
  let s1 := s.setCue c (decodeCue raw (s.cues.get c))
  s1.listDirty (.cue c) (changedBytes cueSpans raw (recordByte s1.view (.cue c)))

/-- A cue entry shows its request as NONE, so that every other request is written back. -/
theorem takeCue_eq (s : State) (bs : List WByte) (c : Fin 32) : s.takeCue bs c =
    match carried bs (recordOffset (.cue c)) with
    | none => s.cueCopied bs c
    | some b => if b = 0 then (s.cueCopied bs c).actRequest b c
      else ((s.cueCopied bs c).actRequest b c).listBytes (.cue c) [0] := by
  have byteZero (u : State) : recordByte u.view (.cue c) 0 = 0 := rfl
  unfold State.takeCue
  dsimp only
  rw [← State.cueCopied, listDirty_dirtyAction, byteZero]
  cases carried bs (recordOffset (.cue c)) <;> rfl

theorem takeCue_uncarried (h : carried bs (recordOffset (.cue c)) = none) : s.takeCue bs c = s.cueCopied bs c := by
  rw [takeCue_eq, h]

theorem takeCue_none (h : carried bs (recordOffset (.cue c)) = some 0) : s.takeCue bs c = s.cueCopied bs c := by
  rw [takeCue_eq, h]
  rfl

theorem takeCue_requested (h : carried bs (recordOffset (.cue c)) = some b) (hb : b ≠ 0) :
    s.takeCue bs c = ((s.cueCopied bs c).actRequest b c).listBytes (.cue c) [0] := by
  rw [takeCue_eq, h]
  exact if_neg hb

/-! ## START (R115, R116) -/

theorem tagHeld_iff (s : State) (c : Fin 32) : s.tagHeld c = true ↔
    ∃ d, d ≠ c ∧ (s.cues.get d).state ≠ .idle ∧ (s.cues.get d).tag = (s.cues.get c).tag := by
  simp [State.tagHeld, List.any_eq_true, and_assoc]

theorem refuseStart_eq (s : State) (c : Fin 32) (r : CueReason) : s.refuseStart c r =
    ((s.setCue c { s.cues.get c with lastEnd := r }).listIf ((s.cues.get c).lastEnd != r) (.cue c)).raiseEvent .cueRefused
      c.val (s.cues.get c).tag r.code := by
  unfold State.refuseStart State.raiseCue
  rw [State.listIf_cues, State.setCue_cues, setAt_get, if_pos rfl]

theorem startCue_accepted {host : Bool} (accepted : s.judgeStart c = none) : s.startCue c host = s.acceptStart c := by
  rw [State.startCue, accepted]

theorem startCue_refused {host : Bool} {r : CueReason} (refused : s.judgeStart c = some r) (other : r ≠ .tagClash) :
    s.startCue c host = s.refuseStart c r := by
  rw [State.startCue, refused]
  exact if_neg fun clash => other clash.2

theorem startCue_clash {host : Bool} (clash : s.judgeStart c = some .tagClash) : s.startCue c host =
    if host then (List.finRange 32).foldl State.cancelIfQueued (s.refuseStart c .tagClash)
    else s.refuseStart c .tagClash := by
  rw [State.startCue, clash]
  simp

/-! ## STOP (R118) -/

/-- A zone's record without the stack entries of a cue. -/
def ZoneRecord.without (r : ZoneRecord) (c : Fin 32) : ZoneRecord := { r with stack := r.stack.filter fun x => x.cue != c }

theorem ZoneRecord.without_of_not_suspended {r : ZoneRecord} (absent : ¬r.stack.any (fun x => x.cue == c)) :
    r.without c = r := by
  have kept : r.stack.filter (fun x => x.cue != c) = r.stack := by simpa using absent
  rw [ZoneRecord.without, kept]

/-- A STOP clears the cue's stack entries in one sweep over the zones. -/
theorem dropStacks_eq (s : State) (c : Fin 32) : ∃ Z : Vector ZoneRecord 8, (∀ z, Z.get z = (s.zones.get z).without c) ∧
    (List.finRange 8).foldl (State.dropStack c) s = s.withZones Z (((List.finRange 8).filter fun z =>
      (s.zones.get z).stack.any fun x => x.cue == c).foldl (fun l z => addListed (.zone z) [] l) s.writeBackList) := by
  refine foldl_zones fun Z L z same => ?_
  have zone : (s.withZones Z L).zones.get z = s.zones.get z := same
  unfold State.dropStack suspendedIn
  dsimp only
  rw [zone]
  split
  · next suspended =>
    rw [suspended]
    rfl
  · next absent =>
    rw [ZoneRecord.without_of_not_suspended absent, ← zone, setZone_self, zone, Bool.eq_false_iff.mpr absent]
    rfl

/-- The state in which a STOP has cleared the cue's waiting memberships and stack entries, and it has the state `st`. -/
def State.clearedTo (s : State) (c : Fin 32) (st : CueState) : State :=
  (((List.finRange 8).foldl (State.dropStack c) s).setCue c
    { s.cues.get c with waiting := 0, stopped := true, state := st }).list (.cue c)

theorem stopCue_resting (resting : (s.cues.get c).state = .idle ∨ (s.cues.get c).state = .stopping) : s.stopCue c = s := by
  rcases resting with state | state <;> simp [State.stopCue, state]

/-- A playing cue goes on as STOPPING, any other comes to its end check. -/
theorem stopCue_live (live : (s.cues.get c).state = .queued ∨ (s.cues.get c).state = .active) : s.stopCue c =
    if (s.cues.get c).state = .active ∧ s.plays c = true then s.clearedTo c .stopping
    else (s.clearedTo c (s.cues.get c).state).endCheck c .stopped := by
  unfold State.stopCue State.clearedTo
  rcases live with state | state <;> simp [state]

/-! ## The end of a cue (R119) -/

theorem endCheck_stays (stays : (s.cues.get c).state = .idle ∨ s.member c = true) (r : CueReason) :
    s.endCheck c r = s := by
  refine if_neg fun ⟨live, free⟩ => ?_
  rcases stays with idle | member
  · exact live idle
  · rw [member] at free
    cases free

theorem endCheck_ends (live : (s.cues.get c).state ≠ .idle) (free : s.member c = false) (r : CueReason) :
    s.endCheck c r = ((s.setCue c { s.cues.get c with
      state := .idle, stopped := false, lastEnd := (s.cues.get c).endReason r }).list (.cue c)).raiseEvent .cueEnd c.val
        (s.cues.get c).tag ((s.cues.get c).endReason r).code := by
  refine (if_pos ⟨live, free⟩).trans ?_
  rw [State.raiseCue, State.list_cues, State.setCue_cues, setAt_get, if_pos rfl]

end

/-- Settles O52: the request acts on the copy, then the judgement of a START by its first condition, the sweep that a STOP
makes over the zones, and the end check. -/
theorem cueRequested : Obligations.CueRequested := by
  refine ⟨fun s bs c => ?_, fun s c host => ?_, fun s c => ?_, fun s c reason => ?_⟩
  · intro raw s1 s2
    refine ⟨takeCue_uncarried, fun b h => ⟨?_, ?_, ?_, fun request start stop => ?_⟩⟩
    · rintro rfl
      exact takeCue_none h
    · rintro rfl
      exact takeCue_requested h (by decide)
    · rintro rfl
      exact takeCue_requested h (by decide)
    · have idle : s2.actRequest b c = s2 := (if_neg start).trans (if_neg stop)
      exact (takeCue_requested h request).trans (congrArg (State.listBytes · (.cue c) [0]) idle)
  · intro e refused cancel
    have refuses {r : CueReason} (judged : s.judgeStart c = some r) (other : r ≠ .tagClash) :
        s.startCue c host = refused r := (startCue_refused judged other).trans (refuseStart_eq s c r)
    split
    · next busy => exact refuses (if_pos busy) nofun
    next idle =>
    split
    · next unzoned => exact refuses ((if_neg idle).trans (if_pos unzoned)) nofun
    next zones =>
    split
    · next level => exact refuses ((if_neg idle).trans ((if_neg zones).trans (if_pos level))) nofun
    next level =>
    have judged : s.judgeStart c = if s.tagHeld c then some .tagClash else none :=
      (if_neg idle).trans ((if_neg zones).trans (if_neg level))
    split
    · next clash =>
      rw [startCue_clash (judged.trans (if_pos ((tagHeld_iff s c).mpr clash))), refuseStart_eq]
      rfl
    · next free => exact startCue_accepted (judged.trans (if_neg fun held => free ((tagHeld_iff s c).mp held)))
  · intro e plays
    have playing : s.plays c = true ↔ plays := s.plays_iff c
    refine ⟨stopCue_resting, fun live => ?_⟩
    obtain ⟨Z, records, swept⟩ := dropStacks_eq s c
    refine ⟨s.clearedTo c (if e.state = .active ∧ plays then .stopping else e.state), ?_, fun z => ?_, ?_⟩
    · unfold State.clearedTo
      rw [swept]
      rfl
    · unfold State.clearedTo
      rw [swept]
      exact records z
    · have stops := stopCue_live live
      by_cases goesOn : e.state = .active ∧ plays
      · rw [if_pos goesOn, if_pos goesOn]
        exact stops.trans (if_pos ⟨goesOn.1, playing.mpr goesOn.2⟩)
      · rw [if_neg goesOn, if_neg goesOn]
        exact stops.trans (if_neg fun ⟨active, plays⟩ => goesOn ⟨active, playing.mp plays⟩)
  · intro e member why
    have holds : s.member c = true ↔ member := s.member_iff c
    refine ⟨fun stays => endCheck_stays (stays.imp_right holds.mpr) reason, fun live free => ?_⟩
    exact endCheck_ends live (Bool.eq_false_iff.mpr (mt holds.mp free)) reason

end Sys2Proof.Machine
end

section
/-! The bytes that each record and the request block show (R155, R163). -/

namespace Sys2Proof.Machine

/-! ## Fields (R155) -/

theorem le_zero (x : Nat) : le x 0 = BitVec.ofNat 8 x := by simp [le]

/-- The byte that stands for no cue or no window. -/
theorem le_none : (0xFF : Byte) = le 0xFF 0 := by decide

/-- The `n` bytes from `o` hold the number `x`, little-endian. -/
def Shows (f : Nat → Byte) (o n x : Nat) : Prop := ∀ k < n, f (o + k) = BitVec.ofNat 8 (x / 256 ^ k)

section
variable {f : Nat → Byte} {o n x : Nat}

theorem shows_one (h : f o = le x 0) : Shows f o 1 x := by
  intro k hk
  obtain rfl : k = 0 := by omega
  exact h

theorem shows_two (h : f o = le x 0 ∧ f (o + 1) = le x 1) : Shows f o 2 x
  | 0, _ => h.1
  | 1, _ => h.2

theorem shows_four (h : f o = le x 0 ∧ f (o + 1) = le x 1 ∧ f (o + 2) = le x 2 ∧ f (o + 3) = le x 3) : Shows f o 4 x := by
  obtain ⟨zeroth, first, second, third⟩ := h
  exact fun
    | 0, _ => zeroth
    | 1, _ => first
    | 2, _ => second
    | 3, _ => third

theorem shows_flag {b : Bool} (h : f o = flagByte b) : Shows f o 1 (if b then 1 else 0) := by
  refine shows_one (h.trans ?_)
  cases b <;> rfl

theorem shows_byte {b : Byte} (h : f o = b) : Shows f o 1 b.toNat := by
  refine shows_one (h.trans ?_)
  simp [le]

theorem shows_zero (h : ∀ k < n, f (o + k) = 0) : Shows f o n 0 := by
  intro k hk
  rw [h k hk, Nat.zero_div]
  rfl

end

/-- A part of a record that another layout fills. -/
theorem shows_part {f g : Nat → Byte} {b o n p x : Nat} (part : Shows g o n x) (place : p = b + o)
    (same : ∀ k < n, f (b + (o + k)) = g (o + k)) : Shows f p n x := by
  intro k hk
  rw [place, Nat.add_assoc, same k hk]
  exact part k hk

/-! ## Sets as bit masks (R155) -/

theorem foldl_weights {n : Nat} (p : Fin n → Bool) : ∀ weight acc : Nat,
    (List.finRange n).foldl (fun acc i => if p i then acc + weight * 2 ^ i.val else acc) acc = acc + weight * Nat.ofBits p := by
  induction n with
  | zero => simp
  | succ n ih =>
    intro weight acc
    have shifted (i : Fin n) : weight * 2 ^ i.succ.val = weight * 2 * 2 ^ i.val := by rw [Fin.val_succ, Nat.pow_succ]; ring
    rw [List.finRange_succ, List.foldl_cons, List.foldl_map, Nat.ofBits_succ]
    simp only [shifted]
    refine (ih (fun i => p i.succ) (weight * 2) _).trans ?_
    change _ = acc + weight * (2 * Nat.ofBits (fun i => p i.succ) + (p 0).toNat)
    cases p 0 <;> simp <;> ring

theorem maskOf_eq_ofBits {n : Nat} (p : Fin n → Bool) : maskOf (List.finRange n) p = Nat.ofBits p := by
  have weighed := foldl_weights p 1 0
  simpa [maskOf] using weighed

/-- Bit i of a mask stands for member i. -/
theorem testBit_maskOf {n : Nat} (p : Fin n → Bool) (i : Nat) :
    (maskOf (List.finRange n) p).testBit i = true ↔ ∃ g : Fin n, p g = true ∧ g.val = i := by
  rw [maskOf_eq_ofBits, Nat.testBit_ofBits]
  split
  · next within => exact ⟨fun holds => ⟨⟨i, within⟩, holds, rfl⟩, fun ⟨_, holds, here⟩ => by subst here; exact holds⟩
  · next beyond => exact iff_of_false nofun fun ⟨g, _, here⟩ => beyond (here ▸ g.isLt)

theorem testBit_two_mul_maskOf {n : Nat} (p : Fin n → Bool) (i : Nat) :
    (2 * maskOf (List.finRange n) p).testBit i = true ↔ ∃ g : Fin n, p g = true ∧ g.val + 1 = i := by
  cases i with
  | zero => simp
  | succ i =>
    rw [Nat.testBit_succ, Nat.mul_div_cancel_left _ (by omega), testBit_maskOf]
    simp only [Nat.add_right_cancel_iff]

theorem le_getLsbD (x k : Nat) {i : Nat} (within : i < 8) : (le x k).getLsbD i = x.testBit (8 * k + i) := by
  have base : 256 ^ k = 2 ^ (8 * k) := by rw [Nat.pow_mul]
  rw [le, BitVec.getLsbD_ofNat, decide_eq_true within, Bool.true_and, base, Nat.testBit_div_two_pow, Nat.add_comm]

/-! ## The status block and the cues: sets and flags in a byte -/

/-- The incident byte: INCIDENT, the latch and the qualified level. -/
theorem statusByte_incident (f : StatusFields) {i : Nat} (within : i < 8) : (statusByte f 4).getLsbD i = true ↔
    (i = 0 ∧ (f.latch || f.qualified) = true) ∨ (i = 1 ∧ f.latch = true) ∨ (i = 2 ∧ f.qualified = true) := by
  have bits : ∀ latch qualified : Bool, ∀ i < 8,
      (le ((if latch || qualified then 1 else 0) + (if latch then 2 else 0) + (if qualified then 4 else 0)) 0).getLsbD i = true ↔
        (i = 0 ∧ (latch || qualified) = true) ∨ (i = 1 ∧ latch = true) ∨ (i = 2 ∧ qualified = true) := by decide
  exact bits f.latch f.qualified i within

theorem windowByte_horizon (e : WindowEntry) {k : Nat} (within : k < 2) :
    windowByte e (18 + k) = le (e.horizon.getD 0xFFFF) k := by
  simp (disch := omega) only [windowByte, if_pos, if_neg, Nat.add_sub_cancel_left]
  cases e.horizon <;> rfl

theorem faultByte_window (f : FaultRecord) :
    faultByte f 3 = le (match f.window with | some w => w.val | none => 0xFF) 0 := by
  obtain ⟨_, _, _, _, window, _⟩ := f
  cases window with
  | none => exact le_none
  | some w => rfl

/-- A set of zones in one byte. -/
theorem le_maskOf_getLsbD (p : Fin 8 → Bool) (z : Fin 8) :
    (le (maskOf (List.finRange 8) p) 0).getLsbD z.val = true ↔ p z = true := by
  rw [le_getLsbD _ 0 z.isLt, testBit_maskOf, Nat.mul_zero, Nat.zero_add]
  exact ⟨fun ⟨g, holds, here⟩ => Fin.ext here ▸ holds, fun holds => ⟨z, holds, rfl⟩⟩

/-! ## The zone record: stack entries and frame records -/

theorem zoneByte_idle {r : ZoneRecord} (left : Nat) (idle : r.active = none) : zoneByte r left 5 = le 0xFF 0 := by
  unfold zoneByte
  rw [idle]
  exact le_none

theorem zoneByte_active {r : ZoneRecord} {a : ActiveCue} (left : Nat) (active : r.active = some a) :
    zoneByte r left 5 = le a.cue.val 0 ∧ Shows (zoneByte r left) 8 4 a.k ∧ zoneByte r left 12 = le left 0 := by
  unfold zoneByte
  rw [active]
  exact ⟨rfl, shows_four ⟨rfl, rfl, rfl, rfl⟩, rfl⟩

/-- A stack is shown bottom first (R155). -/
theorem zoneByte_stack (r : ZoneRecord) (left : Nat) {i k : Nat} (entry : i < 6) (within : k < 8) :
    zoneByte r left (16 + 8 * i + k) = stackByte r.stack.reverse[i]? k := by
  have place : (16 + 8 * i + k - 16) / 8 = i ∧ (16 + 8 * i + k - 16) % 8 = k := by omega
  simp (disch := omega) only [zoneByte, if_pos, if_neg, place]

theorem zoneByte_current (r : ZoneRecord) (left : Nat) {k : Nat} (within : k < 16) :
    zoneByte r left (64 + k) = frameByte r.current 64 k := by
  simp (disch := omega) only [zoneByte, if_pos, if_neg, Nat.add_sub_cancel_left]

theorem zoneByte_previous (r : ZoneRecord) (left : Nat) {k : Nat} (within : k < 16) :
    zoneByte r left (80 + k) = frameByte r.previous 80 k := by
  simp (disch := omega) only [zoneByte, if_pos, if_neg, Nat.add_sub_cancel_left]

section
variable {f : Nat → Byte} {b : Nat}

theorem shows_frame {r : Option FrameRecord} (same : ∀ k < 16, f (b + k) = frameByte r b k) :
    (r = none → Shows f b 1 0) ∧ Shows f (b + 12) 4 0 ∧
      ∀ x, r = some x → Shows f b 1 1 ∧ Shows f (b + 1) 1 (match x.cue with | some c => c.val | none => 0xFF) ∧
        Shows f (b + 2) 2 x.frame ∧ Shows f (b + 4) 4 x.clip.toNat ∧ Shows f (b + 8) 2 x.gd ∧ Shows f (b + 10) 2 x.gi := by
  have part {o n x : Nat} (shown : Shows (frameByte r b) o n x) (within : o + n ≤ 16) : Shows f (b + o) n x :=
    shows_part shown rfl fun k hk => same _ (by omega)
  refine ⟨fun absent => ?_, part ?_ (by omega), fun x present => ⟨?_, ?_, ?_, ?_, ?_, ?_⟩⟩
  · subst absent
    exact part (o := 0) (shows_one rfl) (by omega)
  · exact shows_zero fun k hk => if_pos (by omega)
  all_goals subst present
  · exact part (o := 0) (shows_one rfl) (by omega)
  · refine part (shows_one ?_) (by omega)
    obtain ⟨_, cue, _, _, _⟩ := x
    cases cue with
    | none => exact le_none
    | some c => rfl
  · exact part (shows_two ⟨rfl, rfl⟩) (by omega)
  · exact part (shows_four ⟨rfl, rfl, rfl, rfl⟩) (by omega)
  · exact part (shows_two ⟨rfl, rfl⟩) (by omega)
  · exact part (shows_two ⟨rfl, rfl⟩) (by omega)

theorem shows_stackEntry {x : StackEntry} (same : ∀ k < 8, f (b + k) = stackByte (some x) k) :
    Shows f b 1 x.cue.val ∧ Shows f (b + 1) 1 x.level ∧ Shows f (b + 2) 2 0 ∧ Shows f (b + 4) 4 x.k := by
  have part {o n y : Nat} (shown : Shows (stackByte (some x)) o n y) (within : o + n ≤ 8) : Shows f (b + o) n y :=
    shows_part shown rfl fun k hk => same _ (by omega)
  exact ⟨part (o := 0) (shows_one rfl) (by omega), part (shows_one rfl) (by omega), part (shows_two ⟨rfl, rfl⟩) (by omega),
    part (shows_four ⟨rfl, rfl, rfl, rfl⟩) (by omega)⟩

end

/-! ## The segment's gates and the slot's sets -/

theorem segmentByte_gate (e : SegmentEntry) (v : Fin 8) : segmentByte e (24 + v.val) = gateByte (e.gates.get v) := by
  have := v.isLt
  simp (disch := omega) only [segmentByte, if_pos, if_neg, Nat.add_sub_cancel_left, Fin.ofNat_val_eq_self]

theorem contribCode_eq (c : Contrib) :
    contribCode c = c.next % 512 + 512 * c.state.code + 2048 * (if c.gated then 1 else 0) := by
  unfold contribCode
  cases c.gated <;> rfl

theorem slotByte_contrib (t : Slot) (g : Fin 12) {k : Nat} (within : k < 2) :
    slotByte t (20 + 2 * g.val + k) = le (contribCode (t.contribs.get g)) k := by
  have := g.isLt
  have place : (20 + 2 * g.val + k - 20) / 2 = g.val ∧ (20 + 2 * g.val + k - 20) % 2 = k := by omega
  simp (disch := omega) only [slotByte, if_pos, if_neg, place, Fin.ofNat_val_eq_self]

/-- The segments expected, bit 1 + g for segment g. -/
theorem slotByte_expected (t : Slot) {k i bit : Nat} (byte : k < 2) (within : i < 8) (place : 8 * k + i = bit) :
    (slotByte t (6 + k)).getLsbD i = true ↔ ∃ g ∈ t.expected, g.val + 1 = bit := by
  have bytes : slotByte t (6 + k) = le (2 * maskOf (List.finRange 12) fun g => t.expected.contains g) k := by
    simp (disch := omega) only [slotByte, if_pos, if_neg, Nat.add_sub_cancel_left]
  rw [bytes, le_getLsbD _ _ within, testBit_two_mul_maskOf, place]
  simp

/-! ## The request block -/

theorem requestByte_events (r : RequestBlock) (consumer : BitVec 7) {k i bit : Nat} (byte : k < 2) (within : i < 8)
    (place : 8 * k + i = bit) : (requestByte r consumer (6 + k)).getLsbD i = r.eventMask.getLsbD bit := by
  have bytes : requestByte r consumer (6 + k) = le r.eventMask.toNat k := by
    simp (disch := omega) only [requestByte, if_pos, if_neg, Nat.add_sub_cancel_left]
  rw [bytes, le_getLsbD _ _ within, BitVec.testBit_toNat, place]

theorem imageByte_record (v : RegionView) (id : RecordId) {o : Nat} (within : o < recordSize id) :
    imageByte v (recordOffset id + o) = recordByte v id o := by
  rw [imageByte, areaOf_recordOffset id within]

theorem imageByte_request (v : RegionView) {o : Nat} (within : o < 64) :
    imageByte v (0x40 + o) = requestByte v.request v.status.consumer o := by
  have area : areaOf (0x40 + o) = .request o := by
    simp (disch := omega) only [areaOf, if_pos, if_neg, Nat.add_sub_cancel_left]
  rw [imageByte, area]

/-- The request block's unowned bytes and the reserved bytes are 0 (R166). -/
theorem imageByte_unowned (v : RegionView) {off : Nat} (unowned : (0x48 ≤ off ∧ off < 0x80) ∨ (0xC0 ≤ off ∧ off < 0x100)) :
    imageByte v off = 0 := by
  rcases unowned with ⟨low, high⟩ | ⟨low, high⟩
  · obtain ⟨o, rfl⟩ := Nat.exists_eq_add_of_le (show 0x40 ≤ off by omega)
    rw [imageByte_request v (by omega)]
    simp (disch := omega) only [requestByte, if_neg]
  · have area : areaOf off = .reserved := by simp (disch := omega) only [areaOf, if_pos, if_neg]
    rw [imageByte, area]

/-- Settles O47: each record field by field, and the region as the placement table joins the records and the request block. -/
theorem bytesLaidOut : Obligations.BytesLaidOut := by
  intro s shows flag bits zero
  refine ⟨?_, fun c => ?_, fun w => ?_, fun v => ?_, fun g => ?_, fun z => ?_, fun c => ?_, fun n => ?_,
    fun id o within => imageByte_record s.view id within, rfl, rfl, rfl, rfl, le_zero _, le_zero _, fun i within => ?_,
    fun off unowned => imageByte_unowned s.view unowned⟩
  · refine ⟨shows_two ⟨rfl, rfl⟩, shows_one rfl, shows_flag rfl, fun i within => statusByte_incident s.statusFields within,
      shows_one rfl, shows_one rfl, shows_one rfl, shows_two ⟨rfl, rfl⟩, shows_two ⟨rfl, rfl⟩, shows_two ⟨rfl, rfl⟩,
      shows_two ⟨rfl, rfl⟩, shows_four ⟨rfl, rfl, rfl, rfl⟩, shows_zero fun k hk => ?_⟩
    simp (disch := omega) only [recordByte, statusByte, if_neg]
  · intro f id
    have bytes (o : Nat) : recordByte s.view id o = faultByte f o := by cases c <;> rfl
    refine ⟨shows_flag (bytes 0), shows_one (bytes 1), shows_one (bytes 2), shows_one ((bytes 3).trans (faultByte_window f)),
      shows_four ⟨bytes 4, bytes 5, bytes 6, bytes 7⟩, shows_flag (bytes 8), shows_zero fun k hk => (bytes _).trans ?_⟩
    simp (disch := omega) only [faultByte, if_neg]
  · intro e id
    refine ⟨shows_flag rfl, shows_byte rfl, shows_one rfl, shows_one rfl, shows_four ⟨rfl, rfl, rfl, rfl⟩, shows_flag rfl,
      shows_zero fun k hk => ?_, shows_four ⟨rfl, rfl, rfl, rfl⟩, shows_flag rfl, shows_one rfl,
      shows_two ⟨windowByte_horizon e (k := 0) (by omega), windowByte_horizon e (k := 1) (by omega)⟩,
      shows_zero fun k hk => ?_⟩
    all_goals simp (disch := omega) only [id, recordByte, windowByte, if_pos, if_neg]
  · intro e id
    refine ⟨shows_flag rfl, shows_flag rfl, shows_flag rfl, shows_flag rfl, shows_two ⟨rfl, rfl⟩, shows_one rfl,
      shows_flag rfl, shows_four ⟨rfl, rfl, rfl, rfl⟩, shows_four ⟨rfl, rfl, rfl, rfl⟩, shows_one rfl, shows_one rfl,
      shows_flag rfl, shows_zero fun k hk => ?_, shows_two ⟨rfl, rfl⟩, shows_two ⟨rfl, rfl⟩, shows_two ⟨rfl, rfl⟩,
      shows_two ⟨rfl, rfl⟩, shows_two ⟨rfl, rfl⟩, shows_two ⟨rfl, rfl⟩, shows_four ⟨rfl, rfl, rfl, rfl⟩,
      shows_zero fun k hk => ?_⟩
    all_goals simp (disch := omega) only [id, recordByte, serviceByte, if_pos, if_neg]
  · intro e id state
    refine ⟨shows_flag rfl, shows_one rfl, shows_one rfl, shows_byte rfl, shows_two ⟨rfl, rfl⟩, shows_two ⟨rfl, rfl⟩,
      shows_one rfl, shows_one rfl, shows_two ⟨rfl, rfl⟩, shows_two ⟨rfl, rfl⟩, shows_two ⟨rfl, rfl⟩, shows_two ⟨rfl, rfl⟩,
      shows_two ⟨rfl, rfl⟩, shows_two ⟨rfl, rfl⟩, shows_two ⟨rfl, rfl⟩, fun v => shows_one (segmentByte_gate e v),
      shows_zero fun k hk => ?_⟩
    simp (disch := omega) only [id, recordByte, segmentByte, if_neg]
  · intro r id record
    refine ⟨shows_one rfl, shows_one rfl, shows_two ⟨rfl, rfl⟩, shows_one rfl, fun idle => ?_, fun a active => ?_,
      shows_one rfl, shows_one rfl, shows_one rfl, shows_two ⟨rfl, rfl⟩, fun i entry => ?_,
      shows_frame fun k hk => zoneByte_current r _ hk, shows_frame fun k hk => zoneByte_previous r _ hk,
      shows_zero fun k hk => ?_⟩
    · exact shows_one (zoneByte_idle _ idle)
    · obtain ⟨cue, frames, left⟩ := zoneByte_active (repeatsLeft s.cues r) active
      refine ⟨shows_one cue, frames, shows_one (left.trans ?_)⟩
      rw [repeatsLeft, active]
    · have entries {x : Option StackEntry} (here : r.stack.reverse[i]? = x) (k : Nat) (hk : k < 8) :
          recordByte s.view id (16 + 8 * i + k) = stackByte x k := by
        subst here
        exact zoneByte_stack r _ entry hk
      refine ⟨fun beyond => ?_, fun x here => ?_⟩
      · have absent : r.stack.reverse[i]? = none := by simpa using beyond
        exact shows_zero (entries absent)
      · have shown := shows_stackEntry (entries here)
        have places : 17 + 8 * i = 16 + 8 * i + 1 ∧ 18 + 8 * i = 16 + 8 * i + 2 ∧ 20 + 8 * i = 16 + 8 * i + 4 := by omega
        rw [places.1, places.2.1, places.2.2]
        exact shown
    · simp (disch := omega) only [id, recordByte, zoneByte, if_neg]
  · intro e id state reason
    refine ⟨shows_one rfl, shows_byte rfl, shows_one rfl, shows_byte rfl, shows_four ⟨rfl, rfl, rfl, rfl⟩,
      shows_two ⟨rfl, rfl⟩, shows_one rfl, shows_flag rfl, shows_two ⟨rfl, rfl⟩, shows_two ⟨rfl, rfl⟩, shows_one rfl,
      shows_byte rfl, fun z => ⟨?_, ?_⟩, shows_one rfl, shows_flag rfl, shows_zero fun k hk => ?_⟩
    · exact (le_maskOf_getLsbD (playingIn s.zones c) z).trans (playingIn_iff s.zones c z)
    · exact (le_maskOf_getLsbD (suspendedIn s.zones c) z).trans (suspendedIn_iff s.zones c z)
    · simp (disch := omega) only [id, recordByte, cueByte, if_neg]
  · intro t id state outcome
    refine ⟨shows_one rfl, shows_one rfl, shows_one rfl, shows_one rfl, shows_two ⟨rfl, rfl⟩, fun i within => ?_,
      fun i within => ?_, shows_four ⟨rfl, rfl, rfl, rfl⟩, shows_four ⟨rfl, rfl, rfl, rfl⟩, shows_two ⟨rfl, rfl⟩,
      shows_two ⟨rfl, rfl⟩, fun g => ?_, shows_zero fun k hk => ?_⟩
    · exact slotByte_expected t (k := 0) (by omega) within (by omega)
    · exact slotByte_expected t (k := 1) (by omega) within (by omega)
    · intro c code
      have bytes (k : Nat) (hk : k < 2) : recordByte s.view id (20 + 2 * g.val + k) = le (contribCode c) k :=
        slotByte_contrib t g hk
      rw [contribCode_eq] at bytes
      exact bytes
    · simp (disch := omega) only [id, recordByte, slotByte, if_neg]
  · exact ⟨requestByte_events s.request s.consumer (k := 0) (by omega) within (by omega),
      requestByte_events s.request s.consumer (k := 1) (by omega) within (by omega)⟩

end Sys2Proof.Machine
end

section
/-! A barred master stays barred until the exit from INCIDENT or a hard reset (R146, R150). All operations but the protected
writes and the changes of the latch and of the qualified level leave alone what barring depends on; those two bar more masters,
or let them all off at the exit. -/

namespace Sys2Proof.Machine

/-- What barring depends on: the latch and the qualified level, which make the incident state, and the barred list. -/
def State.barView (s : State) : Bool × Bool × BitVec 16 := (s.latch, s.qualified, s.barred)

/-- The incident state stands, and no master is let off. -/
structure BarsOn (s t : State) : Prop where
  incident : t.incident = s.incident
  barred : ∀ i, s.barred.getLsbD i = true → t.barred.getLsbD i = true

/-- A master that was barred is barred still, or the incident state is NORMAL (R146). -/
def BarsUntilExit (s t : State) : Prop := ∀ i, s.barred.getLsbD i = true → t.barred.getLsbD i = true ∨ t.incident = false

section
variable {s t u : State}

theorem barsOn_of_view (h : t.barView = s.barView) : BarsOn s t := by
  injection h with latch rest
  injection rest with qualified barred
  refine ⟨?_, fun i on => by rwa [barred]⟩
  unfold State.incident
  rw [latch, qualified]

theorem BarsOn.trans (h : BarsOn s t) (k : BarsOn t u) : BarsOn s u :=
  ⟨k.incident.trans h.incident, fun i on => k.barred i (h.barred i on)⟩

theorem BarsOn.untilExit (h : BarsOn s t) : BarsUntilExit s t := fun i on => .inl (h.barred i on)

/-- Before and after the one change of the incident state, masters stay barred. -/
theorem BarsUntilExit.between {v : State} (h : BarsOn s t) (k : BarsUntilExit t u) (l : BarsOn u v) : BarsUntilExit s v :=
  fun i on => (k i (h.barred i on)).imp (l.barred i) l.incident.trans

end

/-! ## What leaves barring alone -/

theorem Quiet.barView {s t : State} (h : Quiet s t) : t.barView = s.barView := by
  unfold State.barView
  rw [h.latch, h.qualified, h.barred]

theorem settle_barView (s : State) : s.settle.barView = s.barView := by
  have taken (l : List Access) : ∀ u : State, (takeRequests l u).barView = u.barView := by
    induction l with
    | nil => exact fun _ => rfl
    | cons a rest ih =>
      intro u
      unfold takeRequests
      split
      · exact ih (u.enqueue a)
      · rfl
  exact (taken _ _).trans (endRetirements_quiet s).barView

theorem noticeDeparture_barView (s : State) (g : Fin 12) (was : SegState) :
    (s.noticeDeparture g was).barView = s.barView := by
  unfold State.noticeDeparture
  split <;> rfl

theorem stall_barView (s : State) (g : Fin 12) : (s.stall g).barView = s.barView :=
  (list_quiet _ _).barView.trans ((noticeDeparture_barView _ _ _).trans (raiseSegment_quiet _ _ _).barView)

theorem exclude_barView (s : State) (g : Fin 12) : (s.exclude g).barView = s.barView :=
  (list_quiet _ _).barView.trans ((noticeDeparture_barView _ _ _).trans (raiseSegment_quiet _ _ _).barView)

theorem disableSegment_barView (s : State) (g : Fin 12) : (s.disableSegment g).barView = s.barView := by
  unfold State.disableSegment
  dsimp only
  split
  · rfl
  · exact noticeDeparture_barView _ _ _

theorem takeHandover_barView (s : State) (g : Fin 12) : (s.takeHandover g).barView = s.barView := by
  have judged (u : State) : (u.judgeHandover g).barView = u.barView := by
    unfold State.judgeHandover
    repeat' split
    · rfl
    · exact exclude_barView u g
    · rfl
    · exact exclude_barView u g
    · rfl
    · rfl
  unfold State.takeHandover
  split
  · exact judged _
  · rfl

theorem takeDeparture_barView (s : State) (g : Fin 12) : (s.takeDeparture g).barView = s.barView := by
  unfold State.takeDeparture
  split
  · exact (depart_quiet _ g).barView
  · rfl

theorem takeDepartures_barView (gs : List (Fin 12)) (s : State) : (s.takeDepartures gs).barView = s.barView :=
  foldl_keeps State.barView _ takeDeparture_barView gs s

theorem giveNotices_barView (s : State) : s.giveNotices.barView = s.barView := by
  unfold State.giveNotices
  split
  · rfl
  · exact (settle_barView _).trans (takeDepartures_barView _ s)

theorem present_barView (s : State) (a : Access) : (s.present a).barView = s.barView := rfl

/-! ## Write-backs, the write-out, event writes and resets -/

theorem startWriteBack_barView (s : State) : s.startWriteBack.barView = s.barView := by
  unfold State.startWriteBack
  repeat' split
  all_goals rfl

theorem releaseWrite_barView (s : State) (m : Fin 16) : (s.releaseWrite m).barView = s.barView := by
  unfold State.releaseWrite
  split <;> rfl

theorem releaseWriteOut_barView (s : State) (m : Fin 16) : (s.releaseWriteOut m).barView = s.barView := by
  unfold State.releaseWriteOut
  split <;> rfl

theorem answerWriteBack_barView (s : State) (b : WriteBack) (k : Nat) (ok : Bool) :
    (s.answerWriteBack b k ok).barView = s.barView := by
  have raised : (if !ok && !b.failed && !b.dropped then
      s.raiseFault .writebackError Config.ownNumber (b.burstAddr k) none else s).barView = s.barView :=
    (Quiet.ite (raiseFault_quiet _ _ _ _ _) (Quiet.refl s)).barView
  have ended (u : State) (b : WriteBack) : (u.endWriteBack b).barView = u.barView :=
    (foldl_keeps State.barView _ releaseWrite_barView _ _).trans
      (Quiet.foldl (releaseRecord_quiet b.id) (List.finRange 16) { u with writeBack := none }).barView
  unfold State.answerWriteBack
  dsimp only
  split
  · exact (ended _ _).trans raised
  · exact raised

theorem answerWriteOut_barView (s : State) (o : WriteOut) (k : Nat) (ok : Bool) :
    (s.answerWriteOut o k ok).barView = s.barView := by
  have raised : (if !ok && !o.failed then
      s.raiseFault .writebackError Config.ownNumber (s.imageAddr k) none else s).barView = s.barView :=
    (Quiet.ite (raiseFault_quiet _ _ _ _ _) (Quiet.refl s)).barView
  have ended (u : State) (b : Bool) : (u.endWriteOut b).barView = u.barView :=
    (foldl_keeps State.barView _ releaseWriteOut_barView _ _).trans (raiseEvent_quiet _ _ _ _ _).barView
  unfold State.answerWriteOut
  dsimp only
  split
  · exact (ended _ _).trans raised
  · exact raised

theorem issueEvent_barView (s : State) : s.issueEvent.barView = s.barView := by
  unfold State.issueEvent
  split <;> rfl

theorem answerEvent_barView (s : State) (ok : Bool) : (s.answerEvent ok).barView = s.barView := by
  unfold State.answerEvent
  split
  · split
    · rfl
    · exact (loseEvent_quiet _).barView
  · rfl

theorem answerBurst_barView (s : State) (n k : Fin 16) (ok : Bool) : (s.answerBurst n k ok).barView = s.barView := by
  unfold State.answerBurst
  repeat' split
  · rfl
  · rfl
  · exact (answerFlush_quiet _ _ _ _ _).barView
  · rfl

theorem changeLine_barView (s : State) (high : Bool) : (s.changeLine high).barView = s.barView := by
  unfold State.changeLine
  split <;> rfl

theorem release_barView (s : State) (base : BitVec 8) (master : BitVec 4) (divider : BitVec 6) :
    (s.release base master divider).barView = s.barView := by
  unfold State.release
  split <;> rfl

/-- A soft reset lets no master off (R151, R167). -/
theorem softReset_barView (s : State) : s.softReset.barView = s.barView :=
  (Quiet.foldl reclassify_quiet (List.finRange 16) (s.softValues.startWriteOut true)).barView

/-! ## Taking an access -/

theorem check_barView (s : State) (m : Fin 16) (a : Access) : (s.check m a).barView = s.barView := by
  have handed (u : State) (c : Cls) : (u.handOn m c).barView = u.barView := rfl
  have raised (k : FaultKind) (w : Option (Fin 16)) : (s.raiseFault k m.val a.addr w).barView = s.barView :=
    (raiseFault_quiet s k _ _ w).barView
  unfold State.check
  split
  · exact ((raiseFault_quiet _ _ _ _ _).trans (respondDropped_quiet _ _ _)).barView
  · split
    · split <;> rfl
    · rfl
    · split
      · exact (dropOffline_quiet _ _ _ _).barView
      · unfold State.checkPartial
        dsimp only
        repeat' split
        · exact (handed _ _).trans (raised _ _)
        · rfl
        · exact ((raiseFault_quiet _ _ _ _ _).trans (respondDropped_quiet _ _ _)).barView
        · rfl

theorem takeAccess_barView (s : State) (m : Fin 16) : (s.takeAccess m).barView = s.barView := by
  unfold State.takeAccess
  split
  · exact (check_barView _ _ _).trans (notices_quiet _ _ _).barView
  · rfl

/-! ## Control-region writes -/

theorem takeSegment_barView (s : State) (bs : List WByte) (g : Fin 12) : (s.takeSegment bs g).barView = s.barView := by
  have acts (u : State) : (u.actEnable bs (.segment g) (fun s => s.enableSegment g) fun s => s.disableSegment g).barView =
      u.barView := by
    unfold State.actEnable
    repeat' split
    · rfl
    · exact disableSegment_barView u g
    · exact (enableSegment_quiet u g).barView
  exact (listDirty_quiet _ _ _).barView.trans ((acts _).trans (listDirty_quiet _ _ _).barView)

theorem takeRecord_barView (bs : List WByte) (s : State) (id : RecordId) : (State.takeRecord bs s id).barView = s.barView := by
  cases id with
  | window w => exact (takeWindow_quiet s bs w).barView
  | service v => exact (takeService_quiet s bs v).barView
  | segment g => exact takeSegment_barView s bs g
  | zone z => exact (takeZone_quiet s bs z).barView
  | cue c => exact (takeCue_quiet s bs c).barView
  | status | accessFault | memoryFault | slot => rfl

theorem takeConsumer_barView (s : State) (bs : List WByte) : (s.takeConsumer bs).barView = s.barView := by
  unfold State.takeConsumer
  split
  · rfl
  · exact (listIf_quiet _ _ _).barView

/-- A refusal bars one master more at most (R150). -/
theorem refuse_barsOn (s : State) (m : Fin 16) : BarsOn s (s.refuse m) := by
  unfold State.refuse
  dsimp only
  split
  · refine BarsOn.trans (t := { s with
      refusals := setAt s.refusals m (min (s.refusals.get m + 1) Config.barringCount)
      barred := s.barred ||| BitVec.twoPow 16 m.val }) ⟨rfl, fun i on => ?_⟩
      (barsOn_of_view ((raiseEvent_quiet _ .masterBarred m.val 0 0).trans (list_quiet _ .status)).barView)
    rw [BitVec.getLsbD_or, on, Bool.true_or]
  · exact barsOn_of_view rfl

theorem chargeProtected_barsOn (s : State) (m : Fin 16) (a : Access) : BarsOn s (s.chargeProtected m a) := by
  have counted (x : Addr) : BarsOn s (s.countProtected m x) := by
    refine BarsOn.trans (barsOn_of_view ?_) (refuse_barsOn _ m)
    exact (listIf_quiet _ _ _).barView.trans (raiseFault_quiet s .protectedWrite m.val x none).barView
  unfold State.chargeProtected
  split
  · exact barsOn_of_view rfl
  · exact counted _

/-! ## The incident state -/

/-- A change of the latch and of the qualified level lets masters off only if it ends the incident (R142, R146). -/
theorem rederive_barsUntilExit {before s : State} (c : Cause) (barred : s.barred = before.barred) :
    BarsUntilExit before (State.rederive before s c) := by
  intro i on
  rw [← barred] at on
  unfold State.rederive
  rw [(list_quiet _ _).barred, (list_quiet _ _).incident]
  split
  · rw [(enterIncident_state s c).2.2]
    exact .inl on
  · split
    · next leaves =>
      obtain ⟨latch, qualified, -, -⟩ := exitIncident_state s c
      right
      rw [State.incident, latch, qualified]
      exact leaves.2
    · exact .inl on

theorem takeLatch_barsUntilExit (s : State) (bs : List WByte) (m : Fin 16) : BarsUntilExit s (s.takeLatch bs m) := by
  have same : BarsUntilExit s s := fun _ => .inl
  unfold State.takeLatch
  split
  · exact same
  · split
    · unfold State.clearLatch
      split
      · exact rederive_barsUntilExit _ rfl
      · exact same
    · unfold State.setLatch
      split
      · exact same
      · exact rederive_barsUntilExit _ rfl

theorem qualify_barsUntilExit (s : State) : BarsUntilExit s s.qualify := rederive_barsUntilExit _ rfl

/-- A whole control-region write changes the incident state once at most, by its latch request. -/
theorem treatControlWrite_barsUntilExit (s : State) (m : Fin 16) (a : Access) :
    BarsUntilExit s (s.treatControlWrite m a) := by
  have performed (be : List Enables) (ids : List RecordId) (bs : List WByte) :
      BarsUntilExit s ((s.chargeProtected m a).performWrite m a be ids bs) := by
    refine .between ((chargeProtected_barsOn s m a).trans (barsOn_of_view ?_)) (takeLatch_barsUntilExit _ bs m)
      (barsOn_of_view (((takeClear_quiet _ bs 0x42 false).trans (takeClear_quiet _ bs 0x43 true)).trans
        (issueMasked_quiet _ _ _ _ _)).barView)
    exact (takeConsumer_barView _ bs).trans (foldl_keeps State.barView _ (takeRecord_barView bs) ids _)
  unfold State.treatControlWrite
  dsimp only
  repeat' split
  · exact (barsOn_of_view rfl).untilExit
  · exact .between (barsOn_of_view rfl) (performed _ _ _) (barsOn_of_view (softReset_barView _))
  · exact performed _ _ _

/-! ## What the part does of itself -/

theorem actDue_barsUntilExit (s : State) (d : Due) : BarsUntilExit s (s.popDue.actDue d) := by
  have quiet {t : State} (h : Quiet s.popDue t) : BarsUntilExit s t := (barsOn_of_view h.barView).untilExit
  cases d with
  | take m => exact (barsOn_of_view (takeAccess_barView s.popDue m)).untilExit
  | hand m =>
    show BarsUntilExit s (s.popDue.treat m)
    unfold State.treat
    repeat' split
    · exact quiet (treatWindow_quiet _ _ _ _)
    · exact quiet (passUnchanged_quiet _ _ _)
    · exact quiet (treatControlRead_quiet _ _ _)
    · exact treatControlWrite_barsUntilExit s.popDue m _
    · exact quiet (Quiet.refl _)

theorem settle_barsUntilExit {s t : State} (h : BarsUntilExit s t) : BarsUntilExit s t.settle :=
  .between (barsOn_of_view rfl) h (barsOn_of_view (settle_barView t))

theorem doDue_barsUntilExit (s : State) (d : Due) : BarsUntilExit s (s.doDue d) :=
  .between (barsOn_of_view rfl) (settle_barsUntilExit (actDue_barsUntilExit s d)) (barsOn_of_view (giveNotices_barView _))

/-! ## Every command but a hard reset -/

theorem done_barsUntilExit {s t u : State} (h : BarsUntilExit s u) (e : done u = .next t) : BarsUntilExit s t := by
  obtain rfl : u.settle = t := by injection e
  exact settle_barsUntilExit h

theorem done_of_barView {s t u : State} (h : u.barView = s.barView) (e : done u = .next t) : BarsUntilExit s t :=
  done_barsUntilExit (barsOn_of_view h).untilExit e

section
variable {s t : State}

/-- A notice that has been given is taken after those before it (log 44). -/
theorem exec_departureNotice_barsUntilExit {g : Fin 12} (given : g ∈ s.departures)
    (e : exec (.departureNotice g) s = .next t) : BarsUntilExit s t := by
  have taken : exec (.departureNotice g) s =
      done ((s.takeDepartures (s.departures.takeWhile (fun x => x != g))).takeDeparture g) :=
    congrArg done (if_pos (List.contains_iff_mem.mpr given))
  exact done_of_barView ((takeDeparture_barView _ g).trans (takeDepartures_barView _ s)) (taken.symm.trans e)

/-- A command that is about what the part does of itself next does that. -/
theorem exec_own {c : Instr} {d : Due} (notReset : c ≠ .hardReset) (next : s.NextDue d) (own : s.Own c d) :
    exec c s = done (s.popDue.actDue d) := by
  rcases acts c notReset with ⟨never, -⟩ | ⟨owns, runs, turns⟩
  · exact absurd own (never s d)
  · rw [runs, catchUpTo_own owns s _ d next ((turns s d).1 own)]

theorem exec_own_barsUntilExit {c : Instr} {d : Due} (notReset : c ≠ .hardReset) (next : s.NextDue d) (own : s.Own c d)
    (e : exec c s = .next t) : BarsUntilExit s t :=
  done_barsUntilExit (actDue_barsUntilExit s d) ((exec_own notReset next own).symm.trans e)

/-- What a command does of its own to a part at rest. -/
theorem done_atRest_barsUntilExit {u : State} (rest : s.AtRest) (h : BarsUntilExit s.catchUp u) (e : done u = .next t) :
    BarsUntilExit s t := by
  rw [catchUp_rest s rest] at h
  exact done_barsUntilExit h e

theorem done_atRest_of_barView {u : State} (rest : s.AtRest) (h : u.barView = s.catchUp.barView) (e : done u = .next t) :
    BarsUntilExit s t := done_atRest_barsUntilExit rest (barsOn_of_view h).untilExit e

/-- A command that waits for its item finds none at rest. -/
theorem done_idle_barsUntilExit {own : State → Due → Option State} (rest : s.AtRest)
    (e : done (s.catchUpTo own) = .next t) : BarsUntilExit s t :=
  done_of_barView (congrArg State.barView (catchUpTo_rest own s rest)) e

/-- At rest only the qualification of the line changes the incident state. -/
theorem exec_atRest_barsUntilExit {c : Instr} (notReset : c ≠ .hardReset) (rest : s.AtRest) (e : exec c s = .next t) :
    BarsUntilExit s t := by
  have quiet {u : State} (h : Quiet s.catchUp u) (e : done u = .next t) : BarsUntilExit s t :=
    done_atRest_of_barView rest h.barView e
  cases c with
  | hardReset => exact absurd rfl notReset
  | accessTakenForService | unwindowedAccess | uplinkWrite | uplinkRead | downlinkWrite | downlinkRead | programWrite
  | programRead | controlRegionRead | controlRegionWrite | windowEnable | windowDisable | serviceEnable | serviceDisable
  | segmentEnable | segmentDisable | zoneTimingServiceWrite | cueStart | cueStop | latchSet | latchClear | accessFaultClear
  | memoryFaultClear | eventConsumerIndexWrite | missLimitWrite | eventEnableMaskWrite | softReset =>
    exact done_idle_barsUntilExit rest e
  | accessRequest a =>
    have runs : exec (.accessRequest a) s =
        if a.wellFormed then done (s.catchUp.present a) else .refused .malformedAccess := rfl
    rw [runs] at e
    split at e
    · exact done_atRest_of_barView rest (present_barView _ a) e
    · cases e
  | departureNotice g =>
    rw [exec_departureNotice_absent (noNotice rest.2 _)] at e
    exact done_atRest_of_barView rest rfl e
  | resetRelease => exact done_atRest_of_barView rest (release_barView _ _ _ _) e
  | memoryAccessAnswer m r => exact quiet (withIssued_quiet _ m r _ fun a i => answerAccess_quiet _ m a i r) e
  | clipReadAnswer m r => exact quiet (withIssued_quiet _ m r _ fun a i => answerClip_quiet _ m a i r) e
  | talkthroughSourceAnswer m r => exact quiet (withIssued_quiet _ m r _ fun a i => answerSource_quiet _ m a i r) e
  | deadlineExpiry n => exact quiet (Quiet.ite (startFlush_quiet _ n _) (Quiet.refl _)) e
  | translationQueueJoin => exact quiet (joinFromWait_quiet _) e
  | mapFetchIssue => exact quiet (issueFetch_quiet _) e
  | flushBurstAnswer n k ok => exact done_atRest_of_barView rest (answerBurst_barView _ n k ok) e
  | mapFetchComplete ok entry =>
    refine quiet ?_ e
    split
    · exact Quiet.refl _
    · exact completeFetch_quiet _ _ _ _
  | activityTimerExpiry g =>
    refine done_atRest_of_barView rest ?_ e
    split
    · exact stall_barView _ g
    · rfl
  | segmentExclusionHandover g => exact done_atRest_of_barView rest (takeHandover_barView _ g) e
  | incidentLineChange high => exact done_atRest_of_barView rest (changeLine_barView _ high) e
  | qualificationTimerExpiry =>
    refine done_atRest_barsUntilExit rest ?_ e
    split
    · exact qualify_barsUntilExit _
    · exact fun _ => .inl
  | imageWriteOutBurstAnswer k ok =>
    refine done_atRest_of_barView rest ?_ e
    repeat' split
    · rfl
    · exact answerWriteOut_barView _ _ _ _
    · rfl
  | writeBackStart => exact done_atRest_of_barView rest (startWriteBack_barView _) e
  | writeBackBurstAnswer k ok =>
    refine done_atRest_of_barView rest ?_ e
    repeat' split
    · rfl
    · exact answerWriteBack_barView _ _ _ _
    · rfl
  | eventWriteIssue => exact done_atRest_of_barView rest (issueEvent_barView _) e
  | eventWriteAnswer ok => exact done_atRest_of_barView rest (answerEvent_barView _ ok) e

end

/-- A tick at rest settles and counts a microsecond. -/
theorem tick_barView {s : State} (rest : s.AtRest) : s.tick.barView = s.barView := by
  have settled : s.catchUp.settle.barView = s.barView := by rw [settle_barView, catchUp_rest s rest]
  unfold State.tick
  generalize s.catchUp.settle = u at settled
  dsimp only
  split <;> exact settled

/-- Settles O60: a command, an item that is due and a tick change the incident state once at most, and only its end lets
masters off. -/
theorem masterStaysBarred : Obligations.MasterStaysBarred := by
  refine ⟨fun c s t m notReset how e on => ?_, fun s t m rest empty e on => ?_,
    fun s d m _ on => doDue_barsUntilExit s d m.val on, fun s => congrArg (·.2.2) (giveNotices_barView s)⟩
  · refine (?_ : BarsUntilExit s t) m.val on
    rcases how with rest | ⟨d, next, own⟩ | ⟨g, given, rfl⟩
    · exact exec_atRest_barsUntilExit notReset rest e
    · exact exec_own_barsUntilExit notReset next own e
    · exact exec_departureNotice_barsUntilExit given e
  · have ticks : step s = .next s.tick := by rw [step, empty]
    obtain rfl : s.tick = t := by injection ticks.symm.trans e
    exact (barsOn_of_view (tick_barView rest)).barred m.val on

end Sys2Proof.Machine
end

section
/-! The request block's bytes act (R141, R158, R164, R170, R172, R175). -/

namespace Sys2Proof.Machine

/-- The largest miss limit is 15 (R158). -/
theorem RequestBlock.take_missLimit (r : RequestBlock) (bs : List WByte) : (r.take bs).missLimit =
    match carried bs 0x45 with
    | none => r.missLimit
    | some b => if 15 < b.toNat then 15 else b.toNat := by
  unfold RequestBlock.take
  cases carried bs 0x45 with
  | none => rfl
  | some b =>
    show min b.toNat 15 = if 15 < b.toNat then 15 else b.toNat
    split <;> omega

/-- An empty fault record is not cleared again (R170). -/
theorem takeClear_some {bs : List WByte} {off : Nat} {b : Byte} (byte : carried bs off = some b) (u : State) (c : Bool) :
    u.takeClear bs off c =
      if b ≠ 0 ∧ (u.faultRecord c).valid = true then u.setFaultRecord c faultReset else u := by
  unfold State.takeClear State.clearFault carries
  rw [byte, ite_and]
  simp only [bne_iff_ne]

theorem takeClear_none {bs : List WByte} {off : Nat} (absent : carried bs off = none) (u : State) (c : Bool) :
    u.takeClear bs off c = u := by
  unfold State.takeClear carries
  rw [absent]
  rfl

/-- Settles O53: each byte's action, one after another in the order of `State.takeRequest`. -/
theorem requestBlockWritten : Obligations.RequestBlockWritten := by
  intro s m bs r mask s1 s2 s3 empty clear
  have copied : ({ s with request := s.request.take bs } : State) = s1 := by
    refine congrArg (fun q : RequestBlock => { s with request := q }) ?_
    rw [show s.request.take bs = { s.request.take bs with missLimit := (s.request.take bs).missLimit } from rfl,
      RequestBlock.take_missLimit]
    rfl
  have consumed : s1.takeConsumer bs = s2 := by
    unfold State.takeConsumer
    cases byte : carried bs 0x44 with
    | none => simp only [s2, byte]
    | some b =>
      simp only [s2, byte]
      rfl
  have latched : s2.takeLatch bs m = s3 := by
    unfold State.takeLatch
    cases byte : carried bs 0x41 <;> simp only [s3, byte]
  have cleared (off : Nat) (c : Bool) (u : State) : u.takeClear bs off c = clear off c u := by
    cases byte : carried bs off with
    | none => simp only [clear, byte, takeClear_none byte]
    | some b =>
      simp only [clear, byte, takeClear_some byte]
      rfl
  show ((((({ s with request := s.request.take bs } : State).takeConsumer bs).takeLatch bs m).takeClear bs 0x42
    false).takeClear bs 0x43 true) = _
  rw [copied, consumed, latched, cleared, cleared]

end Sys2Proof.Machine
end

section
/-! The latch, the incident line, and entry into and exit from INCIDENT (R140 to R146). -/

namespace Sys2Proof.Machine

/-! ## The latch (R141, R142) -/

theorem setLatch_set {s : State} (set : s.latch = true) (m : Fin 16) : s.setLatch m = s := if_pos set

/-- A latch set while the line is high changes no incident state (R142). -/
theorem setLatch_clear {s : State} (clear : s.latch = false) (m : Fin 16) : s.setLatch m =
    (if s.qualified then { s with latch := true } else State.enterIncident { s with latch := true } (.latch m)).list .status := by
  unfold State.setLatch State.rederive State.incident
  rw [clear]
  cases s.qualified <;> rfl

/-- Only the incident master clears the latch. -/
theorem clearLatch_refused {s : State} {m : Fin 16} (h : s.latch = false ∨ m ≠ s.incidentMaster) : s.clearLatch m = s := by
  refine if_neg fun ⟨set, master⟩ => ?_
  rcases h with clear | other
  · exact Bool.false_ne_true (clear.symm.trans set)
  · exact other master

theorem clearLatch_set {s : State} {m : Fin 16} (set : s.latch = true) (master : m = s.incidentMaster) : s.clearLatch m =
    (if s.qualified then { s with latch := false } else State.exitIncident { s with latch := false } (.latch m)).list
      .status := by
  unfold State.clearLatch
  rw [if_pos ⟨set, master⟩]
  unfold State.rederive State.incident
  rw [set]
  cases s.qualified <;> rfl

/-! ## The line (R140) -/

theorem exec_incidentLineChange {s : State} (rest : s.AtRest) (high : Bool) :
    exec (.incidentLineChange high) s = .next (s.changeLine high).settle := by
  show done (s.catchUp.changeLine high) = _
  rw [catchUp_rest s rest]
  rfl

theorem exec_qualificationTimerExpiry {s : State} {t : Nat} (rest : s.AtRest) (released : s.resetLow = false)
    (running : s.qualTimer = some t) (expired : t ≤ s.timebase) :
    exec .qualificationTimerExpiry s = .next s.qualify.settle := by
  have due : s.qualDue = true := by simp [State.qualDue, running, released, expired]
  show done (if s.catchUp.qualDue then s.catchUp.qualify else s.catchUp) = _
  rw [catchUp_rest s rest, if_pos due]
  rfl

/-- A running qualification timer runs on while the raw level differs from the qualified one. -/
theorem qualTimerFor_eq (s : State) (high : Bool) : s.qualTimerFor high =
    if high = s.qualified then none else some (s.qualTimer.getD (s.timebase + 10000)) := by
  unfold State.qualTimerFor
  cases s.qualTimer <;> rfl

/-- A qualified level that rises sets the latch, so that the incident state is then that of the latch (R140, R142). -/
theorem qualify_eq (s : State) :
    let u : State := { s with qualified := s.line, qualTimer := none, latch := s.latch || s.line }
    let was := s.latch || s.qualified
    let is := s.latch || s.line
    s.qualify = (if was = false ∧ is = true then u.enterIncident .line
      else if was = true ∧ is = false then u.exitIncident .line else u).list .status := by
  intro u was is
  have now : u.incident = is := by simp [u, is, State.incident]
  have before : s.incident = was := rfl
  show State.rederive s u .line = _
  unfold State.rederive
  rw [now, before]

/-- Settles O54: each change of the latch or of the qualified level derives the incident state anew. -/
theorem incidentChanges : Obligations.IncidentChanges := by
  unfold Obligations.IncidentChanges
  intro entered left
  have enters (u : State) (c : Cause) : u.enterIncident c = entered u c.object c.reason := rfl
  have leaves (u : State) (c : Cause) : u.exitIncident c = left u c.object c.reason := rfl
  clear_value entered left
  refine ⟨fun s m => ⟨fun set => setLatch_set set m, fun clear => ?_, clearLatch_refused, fun set master => ?_⟩,
    fun s high rest => ⟨fun low => ?_, fun released => ?_⟩, fun s t rest released running expired => ?_⟩
  · rw [setLatch_clear clear, enters]
    rfl
  · rw [clearLatch_set set master, leaves]
    rfl
  · rw [exec_incidentLineChange rest, State.changeLine, if_pos low]
  · rw [exec_incidentLineChange rest, State.changeLine, qualTimerFor_eq, released]
    rfl
  · rw [exec_qualificationTimerExpiry rest released running expired, qualify_eq, enters, leaves]
    rfl

end Sys2Proof.Machine
end

section
/-! The release of the reset and the image write-out that it starts (R140, R153, R165, R166). -/

namespace Sys2Proof.Machine

/-! ## The bursts of a write-out (R166) -/

/-- Word `i` of burst `k` holds the four bytes of the image from offset 64k + 4i, the lowest in bits 7..0. -/
theorem imageBurst_data (s : State) (o : WriteOut) (k : Nat) : (s.imageBurst o k).data =
    (List.range 16).map fun i =>
      let held (j : Nat) : Byte := o.image.getD (64 * k + 4 * i + j) 0
      held 3 ++ held 2 ++ held 1 ++ held 0 := by
  show (List.range' (16 * k) 16).map o.word = _
  rw [List.range'_eq_map_range, List.map_map]
  refine List.map_congr_left fun i _ => ?_
  have place : 4 * (16 * k + i) = 64 * k + 4 * i := by omega
  simp only [Function.comp_apply, WriteOut.word, place, Nat.add_zero]

theorem imageAccesses_running {s : State} {o : WriteOut} (running : s.writeOut = some o) :
    s.imageAccesses = o.left.map (s.imageBurst o) := by
  unfold State.imageAccesses
  rw [running]

theorem imageBytes_length (v : RegionView) : (imageBytes v).length = 5120 := by simp [imageBytes]

theorem imageBytes_getD (v : RegionView) {off : Nat} (within : off < 5120) :
    (imageBytes v).getD off 0 = imageByte v off := by
  rw [List.getD_eq_getElem?_getD, imageBytes_getElem? v within]
  rfl

/-- A burst of a write-out that has not been answered stands at the memory port. -/
theorem imageBurst_mem_memoryPort {s : State} {o : WriteOut} {k : Nat} (running : s.writeOut = some o) (left : k ∈ o.left) :
    s.imageBurst o k ∈ s.memoryPort := by
  refine List.mem_append_right _ ?_
  rw [imageAccesses_running running]
  exact List.mem_map_of_mem left

/-! ## The release (R165) -/

/-- The part with the straps sampled and the timebase at 0. -/
def State.strapped (s : State) (base : BitVec 8) (master : BitVec 4) (divider : BitVec 6) : State :=
  { s with resetLow := false, baseStraps := base, masterStraps := master, dividerStraps := divider, timebase := 0 }

/-- A qualification timer that does not run starts where the line is found high (R140). -/
theorem qualTimerFor_idle {s : State} (level : s.qualified = false) (idle : s.qualTimer = none) (high : Bool) :
    s.qualTimerFor high = if high then some (s.timebase + 10000) else none := by
  rw [qualTimerFor_eq, level, idle]
  cases high <;> rfl

/-- The part just after the release, before the write-out starts: the line is watched from now on. -/
def State.released (s : State) (base : BitVec 8) (master : BitVec 4) (divider : BitVec 6) : State :=
  { s.strapped base master divider with qualTimer := if s.line then some 10000 else none }

theorem release_eq {s : State} (low : s.resetLow = true) (level : s.qualified = false) (idle : s.qualTimer = none)
    (base : BitVec 8) (master : BitVec 4) (divider : BitVec 6) :
    s.release base master divider = (s.released base master divider).startWriteOut false := by
  have timer : (s.strapped base master divider).qualTimerFor s.line = if s.line then some 10000 else none := by
    have zero : (s.strapped base master divider).timebase = 0 := rfl
    rw [qualTimerFor_idle (s := s.strapped base master divider) level idle s.line, zero, Nat.zero_add]
  exact (if_pos low).trans (congrArg (fun t => State.startWriteOut { s.strapped base master divider with qualTimer := t } false)
    timer)

theorem exec_resetRelease {s : State} (rest : s.AtRest) (base : BitVec 8) (master : BitVec 4) (divider : BitVec 6) :
    exec (.resetRelease base master divider) s = .next (s.release base master divider).settle := by
  show done (s.catchUp.release base master divider) = _
  rw [catchUp_rest s rest]
  rfl

theorem startWriteOut_writeOut (s : State) (soft : Bool) : (s.startWriteOut soft).writeOut =
    some { soft := soft, left := List.range 80, failed := false, image := imageBytes s.view } := rfl

/-- Settles O15: the write-out takes the image as the part holds it just after the straps have been sampled. -/
theorem resetReleaseStarts : Obligations.ResetReleaseStarts := by
  refine ⟨fun s base master divider rest low level idle _ => ?_, fun s o running => ?_⟩
  · have running := startWriteOut_writeOut (s.released base master divider) false
    refine ⟨(s.released base master divider).startWriteOut false, ?_, rfl, ⟨_, running, rfl, rfl, rfl, ?_, ?_, fun k hk => ?_⟩,
      rfl, rfl⟩
    · rw [exec_resetRelease rest, release_eq low level idle]
    · dsimp only
      exact imageBytes_length _
    · dsimp only
      exact fun off within => imageBytes_getElem? (s.released base master divider).view within
    · refine ⟨_, imageBurst_mem_memoryPort running (List.mem_range.mpr hk), rfl, rfl, rfl, rfl, ?_, ?_⟩
      · rw [imageBurst_data, List.length_map, List.length_range]
      · intro i hi shown
        have held (j : Nat) (hj : j < 4) :
            (imageBytes (s.released base master divider).view).getD (64 * k + 4 * i + j) 0 = shown j :=
          imageBytes_getD _ (by omega)
        rw [imageBurst_data, List.getElem?_map, List.getElem?_range hi]
        simp only [Option.map_some, held 0 (by omega), held 1 (by omega), held 2 (by omega), held 3 (by omega)]
  · rw [imageAccesses_running running]
    refine List.map_congr_left fun k _ => ?_
    rw [← imageBurst_data s o k]
    rfl

end Sys2Proof.Machine
end

section
/-! Which bytes of a control-region write are left unmasked (R148, R150, R153 to R157, R160). -/

namespace Sys2Proof.Machine

/-! ## The enabled bytes of a write -/

/-- Byte `j` of word `i` of a write, of the value `w`. -/
def State.byteOf (s : State) (a : Access) (i j : Nat) (w : Word) : WByte :=
  { off := s.regionOffset a.addr + 4 * i + j, val := BitVec.ofNat 8 (w.toNat / 256 ^ j) }

theorem mem_writeBytes_iff (s : State) (a : Access) (x : WByte) : x ∈ s.writeBytes a ↔
    ∃ i j be w, a.be[i]? = some be ∧ a.data[i]? = some w ∧ j < 4 ∧ be.getLsbD j = true ∧ x = s.byteOf a i j w := by
  have byte (i : Nat) (be : Enables) (w : Word) (j : Nat) : wordByte (s.regionOffset a.addr) i be w j = some x ↔
      be.getLsbD j = true ∧ x = s.byteOf a i j w := by
    unfold wordByte
    split
    · next on => simp [on, State.byteOf, eq_comm]
    · next off => simp [off]
  have words (i : Nat) (be : Enables) (w : Word) : ((be, w), i) ∈ (a.be.zip a.data).zipIdx ↔
      a.be[i]? = some be ∧ a.data[i]? = some w := by
    rw [List.mk_mem_zipIdx_iff_getElem?, List.getElem?_zip_eq_some]
  unfold State.writeBytes
  rw [List.mem_flatMap]
  constructor
  · rintro ⟨⟨⟨be, w⟩, i⟩, word, member⟩
    obtain ⟨j, low, here⟩ := List.mem_filterMap.mp member
    obtain ⟨enables, data⟩ := (words i be w).mp word
    obtain ⟨on, same⟩ := (byte i be w j).mp here
    exact ⟨i, j, be, w, enables, data, List.mem_range.mp low, on, same⟩
  · rintro ⟨i, j, be, w, enables, data, low, on, same⟩
    exact ⟨((be, w), i), (words i be w).mpr ⟨enables, data⟩,
      List.mem_filterMap.mpr ⟨j, List.mem_range.mpr low, (byte i be w j).mpr ⟨on, same⟩⟩⟩

section
variable {s : State} {m : Fin 16} {a : Access} {i j : Nat} {be : Enables} {w : Word}

/-- The offset of a byte of a write tells its value. -/
theorem eq_byteOf_of_off (data : a.data[i]? = some w) (low : j < 4) {y : WByte} (member : y ∈ s.writeBytes a)
    (here : y.off = (s.byteOf a i j w).off) : y = s.byteOf a i j w := by
  obtain ⟨i', j', be', w', -, data', low', -, rfl⟩ := (mem_writeBytes_iff s a y).mp member
  have place : s.regionOffset a.addr + 4 * i' + j' = s.regionOffset a.addr + 4 * i + j := here
  obtain ⟨rfl, rfl⟩ : i' = i ∧ j' = j := by omega
  rw [Option.some.inj (data'.symm.trans data)]

theorem byteOf_mem_writeBytes (enables : a.be[i]? = some be) (data : a.data[i]? = some w) (low : j < 4) :
    s.byteOf a i j w ∈ s.writeBytes a ↔ be.getLsbD j = true := by
  rw [mem_writeBytes_iff]
  constructor
  · rintro ⟨i', j', be', w', enables', -, low', on, same⟩
    have place : s.regionOffset a.addr + 4 * i + j = s.regionOffset a.addr + 4 * i' + j' := congrArg WByte.off same
    obtain ⟨rfl, rfl⟩ : i = i' ∧ j = j' := by omega
    rwa [Option.some.inj (enables.symm.trans enables')]
  · exact fun on => ⟨i, j, be, w, enables, data, low, on, rfl⟩

end

/-! ## Masking (R148, R150, R156) -/

theorem mem_unlockedBytes_iff (s : State) (m : Fin 16) (a : Access) (x : WByte) : x ∈ s.unlockedBytes m a ↔
    x ∈ s.writeBytes a ∧ s.barred.getLsbD m.val = false ∧ hostWritable x.off = true ∧ s.locked x.off = false := by
  unfold State.unlockedBytes State.isBarred
  cases barred : s.barred.getLsbD m.val <;> simp

theorem mem_protectedBytes_iff (s : State) (m : Fin 16) (a : Access) (x : WByte) : x ∈ s.protectedBytes m a ↔
    x ∈ s.unlockedBytes m a ∧ s.incident = true ∧ m ≠ s.incidentMaster ∧ s.protects (s.unlockedBytes m a) x.off = true := by
  unfold State.protectedBytes
  by_cases guarded : s.incident = true ∧ m ≠ s.incidentMaster
  · rw [if_pos (by simpa using guarded), List.mem_filter]
    simp only [guarded, ne_eq, not_false_eq_true, true_and]
  · rw [if_neg (by simpa using guarded)]
    exact iff_of_false List.not_mem_nil fun ⟨_, incident, other, _⟩ => guarded ⟨incident, other⟩

theorem mem_keptBytes_iff (s : State) (m : Fin 16) (a : Access) (x : WByte) : x ∈ s.keptBytes m a ↔
    x ∈ s.unlockedBytes m a ∧ x ∉ s.protectedBytes m a := by
  simp [State.keptBytes, List.mem_filter]

theorem keptBytes_subset_writeBytes {s : State} {m : Fin 16} {a : Access} {x : WByte} (member : x ∈ s.keptBytes m a) :
    x ∈ s.writeBytes a :=
  ((mem_unlockedBytes_iff s m a x).mp ((mem_keptBytes_iff s m a x).mp member).1).1

/-- Byte `j` of word `i` is enabled towards memory where an unmasked byte lies there (R153). -/
theorem keptEnables_getLsbD {s : State} {m : Fin 16} {a : Access} {i j : Nat} {be : Enables}
    (enables : (s.keptEnables m a)[i]? = some be) (low : j < 4) :
    be.getLsbD j = true ↔ ∃ x ∈ s.keptBytes m a, x.off = s.regionOffset a.addr + 4 * i + j := by
  unfold State.keptEnables at enables
  dsimp only at enables
  rw [List.getElem?_map, Option.map_eq_some_iff] at enables
  obtain ⟨⟨old, i'⟩, word, rfl⟩ := enables
  obtain ⟨-, rfl⟩ : a.be[i]? = some old ∧ i = i' := by simpa [List.getElem?_zipIdx] using word
  rw [BitVec.getLsbD_ofNat, decide_eq_true low, Bool.true_and, testBit_maskOf]
  constructor
  · rintro ⟨g, within, rfl⟩
    obtain ⟨x, member, here⟩ := List.mem_map.mp (List.contains_iff_mem.mp within)
    exact ⟨x, member, here⟩
  · rintro ⟨x, member, here⟩
    exact ⟨⟨j, low⟩, List.contains_iff_mem.mpr (List.mem_map.mpr ⟨x, member, here⟩), rfl⟩

/-- A write is held on the host-owned bytes that the write-back in flight writes (R160). -/
theorem writeHeld_iff (s : State) (m : Fin 16) (a : Access) : s.writeHeld m a = true ↔ ∃ b, s.writeBack = some b ∧
    ∃ x ∈ s.keptBytes m a, ∃ o ∈ b.hostBytes, x.off = recordOffset b.id + o := by
  unfold State.writeHeld
  cases s.writeBack with
  | none => simp
  | some b =>
    simp only [Option.some.injEq, exists_eq_left', List.any_eq_true, List.contains_iff_mem, List.mem_map]
    exact exists_congr fun x => and_congr_right fun _ => exists_congr fun o => and_congr_right fun _ => eq_comm

/-! ## Placement and ownership (R153, R154) -/

/-- An offset within a table of entries `w` bytes long lies in one of them. -/
theorem exists_tablePlace {n w base off : Nat} (low : base ≤ off) (high : off < base + w * n) :
    ∃ i : Fin n, ∃ o < w, off = base + w * i.val + o := by
  have size : 0 < w := Nat.pos_of_ne_zero fun zero => by subst zero; omega
  refine ⟨⟨(off - base) / w, Nat.div_lt_of_lt_mul (by omega)⟩, (off - base) % w, Nat.mod_lt _ size, ?_⟩
  have := Nat.div_add_mod (off - base) w
  dsimp only
  omega

/-- The offset lies on a record, on the request block, on the reserved bytes, on the event ring or on plain memory (R153). -/
theorem area_cases (off : Nat) : (∃ id o, o < recordSize id ∧ off = recordOffset id + o) ∨
    (0x40 ≤ off ∧ off < 0x80 ∧ areaOf off = .request (off - 0x40)) ∨
    (0xC0 ≤ off ∧ off < 0x100 ∧ areaOf off = .reserved) ∨
    (0x1400 ≤ off ∧ off < 0x1800 ∧ areaOf off = .ring) ∨ (0x1800 ≤ off ∧ areaOf off = .plain) := by
  have ranges : off < 0x40 ∨ (0x40 ≤ off ∧ off < 0x80) ∨ (0x80 ≤ off ∧ off < 0xA0) ∨ (0xA0 ≤ off ∧ off < 0xC0) ∨
      (0xC0 ≤ off ∧ off < 0x100) ∨ (0x100 ≤ off ∧ off < 0x100 + 32 * 16) ∨ (0x300 ≤ off ∧ off < 0x300 + 64 * 8) ∨
      (0x500 ≤ off ∧ off < 0x500 + 64 * 12) ∨ (0x800 ≤ off ∧ off < 0x800 + 128 * 8) ∨
      (0xC00 ≤ off ∧ off < 0xC00 + 32 * 32) ∨ (0x1000 ≤ off ∧ off < 0x1000 + 64 * 16) ∨
      (0x1400 ≤ off ∧ off < 0x1800) ∨ 0x1800 ≤ off := by omega
  rcases ranges with h | ⟨l, h⟩ | ⟨l, h⟩ | ⟨l, h⟩ | ⟨l, h⟩ | ⟨l, h⟩ | ⟨l, h⟩ | ⟨l, h⟩ | ⟨l, h⟩ | ⟨l, h⟩ | ⟨l, h⟩ | ⟨l, h⟩ | l
  · exact .inl ⟨.status, off, h, (Nat.zero_add off).symm⟩
  · exact .inr (.inl ⟨l, h, by simp (disch := omega) only [areaOf, if_pos, if_neg]⟩)
  · exact .inl ⟨.accessFault, off - 0x80, Nat.sub_lt_left_of_lt_add l h, (Nat.add_sub_cancel' l).symm⟩
  · exact .inl ⟨.memoryFault, off - 0xA0, Nat.sub_lt_left_of_lt_add l h, (Nat.add_sub_cancel' l).symm⟩
  · exact .inr (.inr (.inl ⟨l, h, by simp (disch := omega) only [areaOf, if_pos, if_neg]⟩))
  · obtain ⟨w, o, within, place⟩ := exists_tablePlace l h
    exact .inl ⟨.window w, o, within, place⟩
  · obtain ⟨v, o, within, place⟩ := exists_tablePlace l h
    exact .inl ⟨.service v, o, within, place⟩
  · obtain ⟨g, o, within, place⟩ := exists_tablePlace l h
    exact .inl ⟨.segment g, o, within, place⟩
  · obtain ⟨z, o, within, place⟩ := exists_tablePlace l h
    exact .inl ⟨.zone z, o, within, place⟩
  · obtain ⟨c, o, within, place⟩ := exists_tablePlace l h
    exact .inl ⟨.cue c, o, within, place⟩
  · obtain ⟨n, o, within, place⟩ := exists_tablePlace l h
    exact .inl ⟨.slot n, o, within, place⟩
  · exact .inr (.inr (.inr (.inl ⟨l, h, by simp (disch := omega) only [areaOf, if_pos, if_neg]⟩)))
  · exact .inr (.inr (.inr (.inr ⟨l, by simp (disch := omega) only [areaOf, if_neg]⟩)))

/-- The placement table puts each byte where its record lies. -/
theorem areaOf_eq_record_iff (off : Nat) (id : RecordId) (o : Nat) :
    areaOf off = .record id o ↔ off = recordOffset id + o ∧ o < recordSize id := by
  refine ⟨fun here => ?_, fun ⟨place, within⟩ => place ▸ areaOf_recordOffset id within⟩
  rcases area_cases off with ⟨id', o', within, rfl⟩ | ⟨-, -, area⟩ | ⟨-, -, area⟩ | ⟨-, -, area⟩ | ⟨-, area⟩
  · rw [areaOf_recordOffset id' within] at here
    injection here with sameId sameOff
    subst sameId sameOff
    exact ⟨rfl, within⟩
  all_goals cases area.symm.trans here

theorem hostWritable_recordOffset (id : RecordId) {o : Nat} (within : o < recordSize id) :
    hostWritable (recordOffset id + o) = hostOwned id o := by
  unfold hostWritable
  rw [areaOf_recordOffset id within]

/-- Outside the records a host may write the request block and the plain memory. -/
theorem hostWritable_outside {off : Nat} (outside : ∀ id o, areaOf off ≠ .record id o) : hostWritable off = true ↔
    (0x40 ≤ off ∧ off ≤ 0x47) ∨ (0x48 ≤ off ∧ off ≤ 0x7F) ∨ 0x1800 ≤ off := by
  rcases area_cases off with ⟨id, o, within, rfl⟩ | ⟨l, h, area⟩ | ⟨l, h, area⟩ | ⟨l, h, area⟩ | ⟨l, area⟩
  · exact absurd (areaOf_recordOffset id within) (outside id o)
  all_goals
    rw [hostWritable, area]
  · exact iff_of_true rfl (by omega)
  · exact iff_of_false nofun (by omega)
  · exact iff_of_false nofun (by omega)
  · exact iff_of_true rfl (by omega)

/-! ## Locking (R157) -/

theorem locked_window (s : State) (w : Fin 16) {o : Nat} (within : o < 32) : s.locked (recordOffset (.window w) + o) = true ↔
    o ≠ 0 ∧ ((s.windows.get w).enable = true ∨ (s.windows.get w).retiring = true) := by
  unfold State.locked
  rw [areaOf_recordOffset (.window w) within]
  simp

theorem locked_service (s : State) (v : Fin 8) {o : Nat} (within : o < 64) :
    s.locked (recordOffset (.service v) + o) = true ↔
      (s.services.get v).enable = true ∧ o ≠ 0 ∧ o ≠ 6 ∧ o ≠ 7 ∧ ¬(8 ≤ o ∧ o ≤ 15) := by
  unfold State.locked
  rw [areaOf_recordOffset (.service v) within]
  have fields : serviceUnlocked o = false ↔ o ≠ 0 ∧ o ≠ 6 ∧ o ≠ 7 ∧ ¬(8 ≤ o ∧ o ≤ 15) := by
    simp only [serviceUnlocked, Bool.or_eq_false_iff, Bool.and_eq_false_iff, beq_eq_false_iff_ne, decide_eq_false_iff_not]
    omega
  rw [Bool.and_eq_true, Bool.not_eq_true', fields, and_comm]

theorem locked_cue (s : State) (c : Fin 32) {o : Nat} (within : o < 32) : s.locked (recordOffset (.cue c) + o) = true ↔
    o ≠ 0 ∧ (s.cues.get c).state ≠ .idle := by
  unfold State.locked
  rw [areaOf_recordOffset (.cue c) within]
  simp

/-- Only bytes of windows, services and cues are ever locked. -/
theorem record_of_locked {s : State} {off : Nat} (locked : s.locked off = true) : ∃ id o, areaOf off = .record id o ∧
    ((∃ w, id = .window w) ∨ (∃ v, id = .service v) ∨ ∃ c, id = .cue c) := by
  unfold State.locked at locked
  split at locked
  · next w o here => exact ⟨_, o, here, .inl ⟨w, rfl⟩⟩
  · next v o here => exact ⟨_, o, here, .inr (.inl ⟨v, rfl⟩)⟩
  · next c o here => exact ⟨_, o, here, .inr (.inr ⟨c, rfl⟩)⟩
  all_goals cases locked

/-! ## Protection (R148) -/

theorem carries_iff (bs : List WByte) (off : Nat) (p : Byte → Bool) :
    carries bs off p = true ↔ ∃ b, carried bs off = some b ∧ p b = true := by
  unfold carries
  cases carried bs off <;> simp

section
variable (s : State) (bs : List WByte)

theorem protects_service (v : Fin 8) {o : Nat} (within : o < 64) :
    s.protects bs (recordOffset (.service v) + o) = true ↔ (s.services.get v).rescue = true ∨
      ∃ b, carried bs (recordOffset (.service v) + 2) = some b ∧ b ≠ 0 := by
  unfold State.protects
  rw [areaOf_recordOffset (.service v) within]
  simp [State.rescue, carries_iff]

theorem protects_window (w : Fin 16) {o : Nat} (within : o < 32) :
    s.protects bs (recordOffset (.window w) + o) = true ↔ (s.services.get (s.windows.get w).service).rescue = true ∨
      ∃ b, carried bs (recordOffset (.window w) + 2) = some b ∧ (s.services.get (Fin.ofNat 8 b.toNat)).rescue = true := by
  unfold State.protects
  rw [areaOf_recordOffset (.window w) within]
  simp [State.rescue, carries_iff]

theorem protects_segment (g : Fin 12) {o : Nat} (within : o < 64) :
    s.protects bs (recordOffset (.segment g) + o) = true := by
  unfold State.protects
  rw [areaOf_recordOffset (.segment g) within]

theorem protects_zone (z : Fin 8) {o : Nat} (within : o < 128) : s.protects bs (recordOffset (.zone z) + o) = true := by
  unfold State.protects
  rw [areaOf_recordOffset (.zone z) within]

theorem protects_cue (c : Fin 32) {o : Nat} (within : o < 32) :
    s.protects bs (recordOffset (.cue c) + o) = true ↔ (s.cues.get c).level = 7 ∨
      ∃ b, carried bs (recordOffset (.cue c) + 2) = some b ∧ b.toNat % 8 = 7 := by
  unfold State.protects
  rw [areaOf_recordOffset (.cue c) within]
  simp [carries_iff]

/-- Of the request block only the soft-reset request and a latch request of 0 are protected. -/
theorem protects_request {o : Nat} (within : o < 64) : s.protects bs (0x40 + o) = true ↔
    (o = 0 ∧ ∃ b, carried bs 0x40 = some b ∧ b ≠ 0) ∨ (o = 1 ∧ carried bs 0x41 = some 0) := by
  have area : areaOf (0x40 + o) = .request o := by
    simp (disch := omega) only [areaOf, if_pos, if_neg, Nat.add_sub_cancel_left]
  unfold State.protects
  rw [area]
  simp only [Bool.or_eq_true, Bool.and_eq_true, beq_iff_eq, carries_iff]
  refine or_congr (and_congr_right ?_) (and_congr_right ?_)
  · rintro rfl
    simp
  · rintro rfl
    simp

theorem protects_unprotected {off : Nat} (range : (0x42 ≤ off ∧ off < 0x100) ∨ 0x1000 ≤ off) : s.protects bs off = false := by
  rcases area_cases off with ⟨id, o, within, rfl⟩ | ⟨l, h, area⟩ | ⟨l, h, area⟩ | ⟨l, h, area⟩ | ⟨l, area⟩
  · unfold State.protects
    rw [areaOf_recordOffset id within]
    cases id with
    | status | accessFault | memoryFault | slot => rfl
    | window i | service i | segment i | zone i | cue i =>
      have := i.isLt
      simp only [recordOffset, recordSize] at range within
      omega
  · obtain ⟨o, rfl⟩ := Nat.exists_eq_add_of_le l
    rw [Bool.eq_false_iff, ne_eq, protects_request s bs (by omega)]
    rintro (⟨rfl, -⟩ | ⟨rfl, -⟩) <;> omega
  all_goals rw [State.protects, area]

end

/-- Settles O44: each masking in turn, and the placement table read both ways. -/
theorem controlBytesMasked : Obligations.ControlBytesMasked := by
  refine ⟨fun s m a i j be w enables data low => ?_, writeHeld_iff, fun s w o => locked_window s w,
    fun s v o => locked_service s v, fun s c o => locked_cue s c, fun s off => record_of_locked,
    fun s bs w v g z c o => ⟨protects_service s bs v, protects_window s bs w, protects_segment s bs g, protects_zone s bs z,
      protects_cue s bs c, ?_, ?_, fun off => protects_unprotected s bs⟩,
    fun w v g z c n => ?_, areaOf_eq_record_iff, fun id o => hostWritable_recordOffset id, fun w v g z c n o => ?_,
    fun off => hostWritable_outside⟩
  · intro off left isProtected x
    have byte : x = s.byteOf a i j w := rfl
    have unlocked : x ∈ s.unlockedBytes m a ↔ left := by
      rw [mem_unlockedBytes_iff, byte, byteOf_mem_writeBytes enables data low]
      exact Iff.rfl
    have guarded : x ∈ s.protectedBytes m a ↔ left ∧ isProtected := by
      rw [mem_protectedBytes_iff, unlocked]
    have kept : x ∈ s.keptBytes m a ↔ left ∧ ¬isProtected := by
      rw [mem_keptBytes_iff, unlocked, guarded, not_and]
      exact ⟨fun h => ⟨h.1, h.2 h.1⟩, fun h => ⟨h.1, fun _ => h.2⟩⟩
    refine ⟨unlocked, kept, guarded, fun be' sent => (keptEnables_getLsbD sent low).trans ⟨?_, fun h => ⟨x, h, rfl⟩⟩⟩
    rintro ⟨y, member, here⟩
    have same : y = x := eq_byteOf_of_off data low (keptBytes_subset_writeBytes member) here
    exact same ▸ member
  · exact (protects_request s bs (o := 0) (by omega)).trans (by simp)
  · exact (protects_request s bs (o := 1) (by omega)).trans (by simp)
  · exact ⟨⟨rfl, rfl⟩, ⟨rfl, rfl⟩, ⟨rfl, rfl⟩, ⟨rfl, rfl⟩, ⟨rfl, rfl⟩, ⟨rfl, rfl⟩, ⟨rfl, rfl⟩, ⟨rfl, rfl⟩, ⟨rfl, rfl⟩⟩
  · simp [hostOwned, or_assoc]

end Sys2Proof.Machine
end

section
/-! A control-region write is taken (R149, R150, R156, R158, R160). -/

namespace Sys2Proof.Machine

/-! ## The write at its turn -/

/-- The rows of a control-region write of `m` (log 29). -/
def controlWriteRows (m : Fin 16) : List Instr :=
  [.controlRegionWrite m, .windowEnable m, .windowDisable m, .serviceEnable m, .serviceDisable m, .segmentEnable m,
    .segmentDisable m, .zoneTimingServiceWrite m, .cueStart m, .cueStop m, .latchSet m, .latchClear m, .accessFaultClear m,
    .memoryFaultClear m, .eventConsumerIndexWrite m, .missLimitWrite m, .eventEnableMaskWrite m, .softReset m]

theorem handsOn_of_mem_rows {m : Fin 16} : ∀ c ∈ controlWriteRows m, handsOn c = some m := by
  simp [controlWriteRows, handsOn]

section
variable {s : State} {m : Fin 16} {a : Access}

/-- Every row of a control-region write hands it on as the part itself would (log 29). -/
theorem exec_controlWrite {c : Instr} (turn : s.Turn m a .control) (write : a.dir = .write) (hands : handsOn c = some m)
    (about : isAbout c s a .control = true) : exec c s = .next (s.popDue.treatControlWrite m a).settle := by
  obtain ⟨next, front, stage⟩ := turn
  have notReset : c ≠ .hardReset := by
    rintro rfl
    cases hands
  have treats : s.popDue.treat m = s.popDue.treatControlWrite m a := by
    unfold State.treat
    rw [show s.popDue.front m = some a from front, show s.popDue.stage m = .taken .control from stage]
    dsimp only
    rw [write]
  rw [exec_own notReset next ⟨hands, a, .control, front, stage, about⟩]
  exact congrArg done treats

theorem treatControlWrite_held (held : s.writeHeld m a = true) : s.treatControlWrite m a = s.setStage m .heldWriteBack :=
  if_pos held

theorem asksSoftReset_iff (bs : List WByte) : asksSoftReset bs = true ↔ ∃ b, carried bs 0x40 = some b ∧ b ≠ 0 := by
  simp [asksSoftReset, carries_iff]

end

/-! ## The records that a write is a write to (R158; log 37) -/

/-- The record on which an offset of the control region lies, if it lies on one. -/
def recordAt (off : Nat) : Option RecordId :=
  match areaOf off with
  | .record id _ => some id
  | _ => none

theorem recordAt_eq_some_iff (off : Nat) (id : RecordId) : recordAt off = some id ↔ ∃ o, areaOf off = .record id o := by
  unfold recordAt
  cases areaOf off <;> simp

theorem recordsOf_eq (bs : List WByte) : recordsOf bs = (bs.filterMap fun b => recordAt b.off).dedup := by
  unfold recordsOf recordAt
  congr 2
  funext b
  cases areaOf b.off <;> rfl

theorem mem_recordsOf_iff (bs : List WByte) (id : RecordId) :
    id ∈ recordsOf bs ↔ ∃ x ∈ bs, ∃ o, areaOf x.off = .record id o := by
  simp only [recordsOf_eq, List.mem_dedup, List.mem_filterMap, recordAt_eq_some_iff]

theorem mem_recordsWritten_iff (s : State) (m : Fin 16) (a : Access) (id : RecordId) : id ∈ s.recordsWritten m a ↔
    s.barred.getLsbD m.val = false ∧ (∃ x ∈ s.writeBytes a, ∃ o, areaOf x.off = .record id o) ∧
      ¬∃ x ∈ s.protectedBytes m a, ∃ o, areaOf x.off = .record id o := by
  unfold State.recordsWritten State.isBarred
  cases s.barred.getLsbD m.val with
  | true => simp
  | false => simp [List.mem_filter, mem_recordsOf_iff]

theorem recordOffset_injective {x y : RecordId} (same : recordOffset x = recordOffset y) : x = y := by
  have pos (id : RecordId) : 0 < recordSize id := by cases id <;> exact Nat.succ_pos _
  have here := (areaOf_eq_record_iff (recordOffset x) x 0).mpr ⟨rfl, pos x⟩
  have there := (areaOf_eq_record_iff (recordOffset x) y 0).mpr ⟨same, pos y⟩
  injection here.symm.trans there

/-- Records lie one after another: a higher byte lies on no lower record. -/
theorem recordOffset_le {p q o k : Nat} {x y : RecordId} (first : areaOf p = .record x o) (second : areaOf q = .record y k)
    (ascends : p < q) : recordOffset x ≤ recordOffset y := by
  obtain ⟨rfl, -⟩ := (areaOf_eq_record_iff p x o).mp first
  obtain ⟨rfl, within⟩ := (areaOf_eq_record_iff q y k).mp second
  by_contra above
  have inside := (areaOf_eq_record_iff (recordOffset x + o) y (recordOffset x + o - recordOffset y)).mpr
    ⟨by omega, by omega⟩
  injection first.symm.trans inside with same
  exact above (same ▸ Nat.le_refl _)

/-- The bytes of a write stand in ascending address. -/
theorem writeBytes_ascend (s : State) (a : Access) : (s.writeBytes a).Pairwise (fun x y => x.off < y.off) := by
  have place {i j : Nat} {be : Enables} {w : Word} {x : WByte} (here : wordByte (s.regionOffset a.addr) i be w j = some x) :
      x.off = s.regionOffset a.addr + 4 * i + j := by
    unfold wordByte at here
    split at here <;> cases here
    rfl
  have indices : ((a.be.zip a.data).zipIdx).Pairwise (fun x y => x.2 < y.2) := by
    rw [← List.pairwise_map (f := Prod.snd) (R := (· < ·)), List.zipIdx_map_snd]
    exact List.pairwise_lt_range'
  unfold State.writeBytes
  refine List.pairwise_flatMap.mpr ⟨fun word _ => ?_, indices.imp fun {v w} ascends x hx y hy => ?_⟩
  · refine List.pairwise_filterMap.mpr (List.pairwise_lt_range.imp fun {j k} ascends x hx y hy => ?_)
    rw [place hx, place hy]
    omega
  · obtain ⟨j, low, hx⟩ := List.mem_filterMap.mp hx
    obtain ⟨k, -, hy⟩ := List.mem_filterMap.mp hy
    rw [place hx, place hy]
    have := List.mem_range.mp low
    omega

theorem recordsOf_ascend {bs : List WByte} (ascend : bs.Pairwise (fun x y => x.off < y.off)) :
    (recordsOf bs).Pairwise (fun x y => recordOffset x < recordOffset y) := by
  have rises : (bs.filterMap fun b => recordAt b.off).Pairwise (fun x y => recordOffset x ≤ recordOffset y) := by
    refine List.pairwise_filterMap.mpr (ascend.imp fun {b c} above x hx y hy => ?_)
    obtain ⟨o, first⟩ := (recordAt_eq_some_iff b.off x).mp hx
    obtain ⟨k, second⟩ := (recordAt_eq_some_iff c.off y).mp hy
    exact recordOffset_le first second above
  rw [recordsOf_eq]
  exact ((rises.sublist (List.dedup_sublist _)).and (List.nodup_dedup _)).imp fun ⟨le, ne⟩ =>
    lt_of_le_of_ne le fun same => ne (recordOffset_injective same)

theorem recordsWritten_ascend (s : State) (m : Fin 16) (a : Access) :
    (s.recordsWritten m a).Pairwise (fun x y => recordOffset x < recordOffset y) := by
  unfold State.recordsWritten
  split
  · exact .nil
  · exact (recordsOf_ascend (writeBytes_ascend s a)).filter _

/-! ## The records that the part changes (R159, R160) -/

theorem changedBytes_ne_nil_iff (spans : List (Nat × Nat)) (raw new : Nat → Byte) : changedBytes spans raw new ≠ [] ↔
    ∃ p ∈ spans, ∃ o, p.1 ≤ o ∧ o < p.1 + p.2 ∧ raw o ≠ new o := by
  have field (l : List Nat) : (if l.all (fun o => raw o == new o) then [] else l) ≠ [] ↔ ∃ o ∈ l, raw o ≠ new o := by
    split
    · next same => simpa using same
    · next differs =>
      obtain ⟨o, member, ne⟩ : ∃ o ∈ l, raw o ≠ new o := by simpa using differs
      exact iff_of_true (List.ne_nil_of_mem member) ⟨o, member, ne⟩
  unfold changedBytes
  rw [ne_eq, List.flatMap_eq_nil_iff, not_forall]
  simp only [Classical.not_imp, field, List.mem_range'_1, and_assoc]

theorem mem_changedRecords_iff (before after : State) (ids : List RecordId) (bs : List WByte) (id : RecordId) :
    id ∈ changedRecords before after ids bs ↔ id ∈ ids ∧
      ((∃ p ∈ hostSpans id, ∃ o, p.1 ≤ o ∧ o < p.1 + p.2 ∧ before.overlay bs id o ≠ recordByte after.view id o) ∨
        ∃ b, carried bs (recordOffset id) = some b ∧ b ≠ recordByte after.view id 0) := by
  have action : after.dirtyAction bs id ≠ [] ↔
      ∃ b, carried bs (recordOffset id) = some b ∧ b ≠ recordByte after.view id 0 := by
    unfold State.dirtyAction
    have shown := carries_iff bs (recordOffset id) fun b => b != recordByte after.view id 0
    simp only [bne_iff_ne] at shown
    rw [← shown]
    split
    · next changed => exact iff_of_true (List.cons_ne_nil _ _) changed
    · next held => exact iff_of_false (· rfl) held
  unfold changedRecords dirtyOf
  rw [List.mem_filter, bne_iff_ne, ne_eq, List.append_eq_nil_iff, not_and_or, ← ne_eq, ← ne_eq, changedBytes_ne_nil_iff, action]

/-! ## The charge for protected bytes (R149, R150) -/

theorem refuse_below {s : State} {m : Fin 16} (below : s.refusals.get m + 1 < 8) :
    s.refuse m = { s with refusals := setAt s.refusals m (min (s.refusals.get m + 1) 8) } :=
  if_neg (Nat.not_le.mpr below)

theorem refuse_bars {s : State} {m : Fin 16} (reached : 8 ≤ s.refusals.get m + 1) :
    s.refuse m = (({ s with
      refusals := setAt s.refusals m (min (s.refusals.get m + 1) 8)
      barred := s.barred ||| BitVec.twoPow 16 m.val } : State).raiseEvent .masterBarred m.val 0 0).list .status :=
  if_pos reached

/-! ## Writes of which nothing acts -/

/-- A mask of 14 bits read from its own two bytes is itself (R155). -/
theorem mask_of_bytes (x : BitVec 14) :
    ((x.setWidth 16).extractLsb' 8 8 ++ (x.setWidth 16).extractLsb' 0 8 : BitVec 16).setWidth 14 = x := by
  have whole : ((x.setWidth 16).extractLsb' 8 8 ++ (x.setWidth 16).extractLsb' 0 8 : BitVec 16) = x.setWidth 16 :=
    (BitVec.extractLsb'_append_extractLsb'_eq_extractLsb' (start₁ := 0) (len₁ := 8) rfl).trans BitVec.extractLsb'_eq_self
  rw [whole, BitVec.setWidth_setWidth_of_le _ (by omega), BitVec.setWidth_eq]

theorem RequestBlock.take_nil (r : RequestBlock) : r.take [] = r :=
  congrArg (fun x => { r with eventMask := x }) (mask_of_bytes r.eventMask)

theorem takeRequest_nil (s : State) (m : Fin 16) : s.takeRequest [] m = s :=
  congrArg (fun r => { s with request := r }) s.request.take_nil

section
variable {s : State} {m : Fin 16} {a : Access}

theorem keptEnables_of_nil (nothing : s.keptBytes m a = []) : s.keptEnables m a = List.replicate a.len 0 := by
  unfold State.keptEnables
  rw [nothing]
  refine List.eq_replicate_iff.mpr ⟨by simp [Access.len], fun be member => ?_⟩
  obtain ⟨word, -, rfl⟩ := List.mem_map.mp member
  rfl

theorem writeHeld_of_nil (nothing : s.keptBytes m a = []) : s.writeHeld m a = false := by
  rw [Bool.eq_false_iff, ne_eq, writeHeld_iff, nothing]
  rintro ⟨b, -, x, member, -⟩
  cases member

/-- A barred master's write is one to no record, and nothing of it acts (R150). -/
theorem barred_masks (barred : s.barred.getLsbD m.val = true) (a : Access) :
    s.keptBytes m a = [] ∧ s.protectedBytes m a = [] ∧ s.recordsWritten m a = [] := by
  have unlocked : s.unlockedBytes m a = [] := if_pos barred
  refine ⟨List.eq_nil_iff_forall_not_mem.mpr fun x kept => ?_, List.eq_nil_iff_forall_not_mem.mpr fun x masked => ?_,
    if_pos barred⟩
  · exact List.ne_nil_of_mem ((mem_keptBytes_iff s m a x).mp kept).1 unlocked
  · exact List.ne_nil_of_mem ((mem_protectedBytes_iff s m a x).mp masked).1 unlocked

/-- Where protection masks every byte, none is kept and no record is written (R149). -/
theorem keptBytes_of_all_protected (all : ∀ x ∈ s.writeBytes a, x ∈ s.protectedBytes m a) : s.keptBytes m a = [] :=
  List.eq_nil_iff_forall_not_mem.mpr fun x kept =>
    ((mem_keptBytes_iff s m a x).mp kept).2 (all x (keptBytes_subset_writeBytes kept))

theorem recordsWritten_of_all_protected (all : ∀ x ∈ s.writeBytes a, x ∈ s.protectedBytes m a) :
    s.recordsWritten m a = [] :=
  List.eq_nil_iff_forall_not_mem.mpr fun id written => by
    obtain ⟨-, ⟨x, member, o, here⟩, spared⟩ := (mem_recordsWritten_iff s m a id).mp written
    exact spared ⟨x, all x member, o, here⟩

/-- A write of which no byte acts goes to memory, after its charge, with no byte enabled. -/
theorem written_of_nil (nothing : s.keptBytes m a = []) (noRecord : s.recordsWritten m a = []) : s.written m a =
    (match s.protectedBytes m a with
      | [] => s.popDue
      | x :: _ => s.popDue.countProtected m (s.regionBase + BitVec.ofNat 32 (x.off - x.off % 4))).issueMasked m a
        (List.replicate a.len 0) [] := by
  unfold State.written
  rw [nothing, noRecord, keptEnables_of_nil nothing]
  dsimp only [List.foldl_nil]
  rw [takeRequest_nil]
  rfl

end

/-- Settles O45: each row hands the write on as the part would, and what is masked and charged is that of
`State.written`. -/
theorem controlWriteTaken : Obligations.ControlWriteTaken := by
  refine ⟨fun s m a c turn write row about => ?_, fun s m a id => ⟨mem_recordsWritten_iff s m a id, recordsWritten_ascend s m a⟩,
    fun s bs => ⟨fun _ => rfl, fun _ => rfl, fun _ => rfl, fun _ => rfl, fun _ => rfl, fun id spans => ?_⟩,
    mem_changedRecords_iff, fun s m addr => ?_, fun s m a => ?_, fun _ _ _ _ _ => rfl⟩
  · rw [exec_controlWrite turn write (handsOn_of_mem_rows c row) about]
    refine ⟨fun held => ?_, fun free silent => ?_, fun b free asked nonzero => ?_⟩
    · rw [treatControlWrite_held (s := s.popDue) held]
      rfl
    · have quiet : ¬asksSoftReset (s.keptBytes m a) = true := fun asks => by
        obtain ⟨b, asked, nonzero⟩ := (asksSoftReset_iff _).mp asks
        exact nonzero (silent b asked)
      rw [treatControlWrite_written free, if_neg quiet]
    · rw [treatControlWrite_written free, if_pos ((asksSoftReset_iff _).mpr ⟨b, asked, nonzero⟩)]
  · cases id with
    | status | accessFault | memoryFault | slot => rfl
    | window | service | segment | zone | cue => cases spans
  · intro n f p q
    have fault : Quiet s f := raiseFault_quiet s _ _ _ _
    have counted : Quiet { f with protectedWrites := min (s.protectedWrites + 1) 65535 } p := listIf_quiet _ _ _
    have refusals : p.refusals = s.refusals := counted.refusals.trans fault.refusals
    have barred : p.barred = s.barred := counted.barred.trans fault.barred
    have charged : s.countProtected m addr = p.refuse m := by
      unfold State.countProtected
      dsimp only
      rw [fault.protectedWrites]
      rfl
    rw [charged]
    refine ⟨fun below => ?_, fun reached => ?_⟩
    · rw [refuse_below (by rwa [refusals]), refusals]
    · rw [refuse_bars (by rwa [refusals]), refusals, barred]
  · refine ⟨fun barred => ?_, fun x rest masked all => ?_⟩
    · obtain ⟨kept, masked, records⟩ := barred_masks barred a
      refine ⟨kept, masked, records, writeHeld_of_nil kept, ?_⟩
      rw [written_of_nil kept records, masked]
      rfl
    · have kept := keptBytes_of_all_protected all
      refine ⟨kept, writeHeld_of_nil kept, ?_⟩
      rw [written_of_nil kept (recordsWritten_of_all_protected all), masked]
      rfl

end Sys2Proof.Machine
end

section
/-! The write-back list (R159). -/

namespace Sys2Proof.Machine

/-- A listed record takes the bytes into its set (R159). -/
def ListedRecord.merge (r : ListedRecord) (host : List Nat) : ListedRecord :=
  { r with hostBytes := r.hostBytes ++ host.filter (fun o => !r.hostBytes.contains o) }

theorem ListedRecord.mem_merge_hostBytes (r : ListedRecord) (host : List Nat) (o : Nat) :
    o ∈ (r.merge host).hostBytes ↔ o ∈ host ∨ o ∈ r.hostBytes := by
  have added : o ∈ host.filter (fun o => !r.hostBytes.contains o) ↔ o ∈ host ∧ o ∉ r.hostBytes := by simp
  show o ∈ r.hostBytes ++ _ ↔ _
  rw [List.mem_append, added]
  tauto

theorem addListed_cons_same {id : RecordId} {r : ListedRecord} (same : r.id = id) (host : List Nat) (l : List ListedRecord) :
    addListed id host (r :: l) = r.merge host :: l := if_pos same

theorem addListed_cons_other {id : RecordId} {r : ListedRecord} (other : r.id ≠ id) (host : List Nat)
    (l : List ListedRecord) : addListed id host (r :: l) = r :: addListed id host l := if_neg other

theorem mem_addListed_other {id : RecordId} {r : ListedRecord} (other : r.id ≠ id) (host : List Nat)
    (l : List ListedRecord) : r ∈ addListed id host l ↔ r ∈ l := by
  have differs {x : ListedRecord} (same : x.id = id) : r ≠ x := fun e => other (e ▸ same)
  induction l with
  | nil => simp [addListed, differs]
  | cons x l ih =>
    by_cases same : x.id = id
    · rw [addListed_cons_same same, List.mem_cons, List.mem_cons, or_iff_right (differs same),
        or_iff_right (differs (x := x.merge host) same)]
    · rw [addListed_cons_other same, List.mem_cons, List.mem_cons]
      exact or_congr_right ih

/-- Where no record stands twice on the list, the listed record holds the bytes given and those that it held. -/
theorem mem_hostBytes_addListed {id : RecordId} {host : List Nat} {l : List ListedRecord} (once : (l.map (·.id)).Nodup)
    {r : ListedRecord} (same : r.id = id) (member : r ∈ addListed id host l) (o : Nat) :
    o ∈ r.hostBytes ↔ o ∈ host ∨ ∃ q ∈ l, q.id = id ∧ o ∈ q.hostBytes := by
  induction l with
  | nil =>
    obtain rfl : r = { id := id, hostBytes := host } := List.mem_singleton.mp member
    simp
  | cons x l ih =>
    rw [List.map_cons, List.nodup_cons] at once
    by_cases here : x.id = id
    · have later (q : ListedRecord) (hq : q ∈ l) : q.id ≠ id := fun e =>
        once.1 (here.trans e.symm ▸ List.mem_map_of_mem hq)
      rw [addListed_cons_same here, List.mem_cons] at member
      obtain rfl := member.resolve_right fun behind => later r behind same
      rw [ListedRecord.mem_merge_hostBytes]
      refine or_congr_right ⟨fun held => ⟨x, List.mem_cons_self, here, held⟩, fun ⟨q, hq, named, held⟩ => ?_⟩
      obtain rfl := (List.mem_cons.mp hq).resolve_right fun behind => later q behind named
      exact held
    · rw [addListed_cons_other here, List.mem_cons] at member
      have behind : r ∈ addListed id host l := member.resolve_left fun e => here (e ▸ same)
      rw [ih once.2 behind]
      simp [here]

/-- Settles O7, by induction on the list. -/
theorem listingOnce : Obligations.ListingOnce := fun id host l =>
  ⟨addListed_ids id host l, fun _ other => mem_addListed_other other host l,
    fun once _ same member => mem_hostBytes_addListed once same member⟩

end Sys2Proof.Machine
end

section
/-! The answers to the bursts of a write-back and of the image write-out, and the accesses that they let go on (R26, R160 to
R162, R166, R167; logs 14, 23, 26). -/

namespace Sys2Proof.Machine

/-! ## Walking through the masters -/

/-- A fold whose step at a master changes that master's place at the system port alone, by what stands there. -/
theorem foldl_ports {f : State → Fin 16 → State} {g : Fin 16 → MasterPort → MasterPort}
    (step : ∀ s x m, (f s x).ports.get m = if x = m then g m (s.ports.get m) else s.ports.get m) {l : List (Fin 16)}
    (once : l.Nodup) (m : Fin 16) : ∀ s : State,
    (l.foldl f s).ports.get m = if m ∈ l then g m (s.ports.get m) else s.ports.get m := by
  induction l with
  | nil => exact fun _ => rfl
  | cons x l ih =>
    intro s
    obtain ⟨new, once⟩ := List.nodup_cons.mp once
    rw [List.foldl_cons, ih once, step]
    by_cases here : x = m
    · subst here
      simp [new]
    · simp [here, Ne.symm here]

theorem foldl_finRange_ports {f : State → Fin 16 → State} {g : Fin 16 → MasterPort → MasterPort}
    (step : ∀ s x m, (f s x).ports.get m = if x = m then g m (s.ports.get m) else s.ports.get m) (s : State) (m : Fin 16) :
    ((List.finRange 16).foldl f s).ports.get m = g m (s.ports.get m) :=
  (foldl_ports step (List.nodup_finRange 16) m s).trans (if_pos (List.mem_finRange m))

/-! ## Accesses whose hold ends are to be handed on (R26, R160, R166; log 23) -/

/-- The access in service of `m` goes on if it is held so. -/
def State.freeHeld (held : Stage) (s : State) (m : Fin 16) : State := if s.stage m = held then s.goOn m else s

theorem releaseWriteOut_eq_freeHeld : State.releaseWriteOut = State.freeHeld .heldWriteOut := by
  funext s m
  unfold State.releaseWriteOut State.freeHeld
  cases s.stage m <;> rfl

theorem releaseWrite_eq_freeHeld : State.releaseWrite = State.freeHeld .heldWriteBack := by
  funext s m
  unfold State.releaseWrite State.freeHeld
  cases s.stage m <;> rfl

/-- A master's place at the system port once an access held so has gone on. -/
def MasterPort.freed (held : Stage) (p : MasterPort) : MasterPort :=
  { p with stage := if p.stage = held then .taken .control else p.stage }

theorem freeHeld_ports (held : Stage) (s : State) (x m : Fin 16) : (s.freeHeld held x).ports.get m =
    if x = m then (s.ports.get m).freed held else s.ports.get m := by
  unfold State.freeHeld
  split
  · next isHeld =>
    refine (setAt_get s.ports x m { s.ports.get x with stage := .taken .control }).trans ?_
    split
    · next here =>
      subst here
      exact congrArg (fun st => ({ s.ports.get x with stage := st } : MasterPort)) (if_pos isHeld).symm
    · rfl
  · next free =>
    split
    · next here =>
      subst here
      exact congrArg (fun st => ({ s.ports.get x with stage := st } : MasterPort)) (if_neg free).symm
    · rfl

theorem foldl_freeHeld_frame (held : Stage) (l : List (Fin 16)) : ∀ s : State,
    l.foldl (State.freeHeld held) s =
      { s with ports := (l.foldl (State.freeHeld held) s).ports, due := (l.foldl (State.freeHeld held) s).due } := by
  induction l with
  | nil => exact fun _ => rfl
  | cons x l ih =>
    intro s
    have step : s.freeHeld held x = { s with ports := (s.freeHeld held x).ports, due := (s.freeHeld held x).due } := by
      unfold State.freeHeld
      split <;> rfl
    rw [List.foldl_cons]
    refine (ih _).trans ?_
    rw [step]

/-- They are to be handed on in the order in which they go on (log 14). -/
theorem foldl_freeHeld_due (held : Stage) {l : List (Fin 16)} (once : l.Nodup) : ∀ s : State,
    (l.foldl (State.freeHeld held) s).due = s.due ++ (l.filter (fun m => s.stage m = held)).map Due.hand := by
  induction l with
  | nil => exact fun s => (List.append_nil _).symm
  | cons x l ih =>
    intro s
    obtain ⟨new, once⟩ := List.nodup_cons.mp once
    have later : l.filter (fun m => (s.freeHeld held x).stage m = held) = l.filter (fun m => s.stage m = held) := by
      refine List.filter_congr fun m hm => ?_
      have other : x ≠ m := fun e => new (e ▸ hm)
      rw [State.stage, freeHeld_ports, if_neg other, State.stage]
    rw [List.foldl_cons, ih once, later, List.filter_cons]
    by_cases isHeld : s.stage x = held
    · have owes : (s.freeHeld held x).due = s.due ++ [.hand x] := by
        unfold State.freeHeld
        rw [if_pos isHeld]
        rfl
      rw [owes, if_pos (decide_eq_true isHeld), List.map_cons, List.append_assoc, List.singleton_append]
    · rw [if_neg (by simpa using isHeld), State.freeHeld, if_neg isHeld]

/-! ## The error of a burst (R161, R166) -/

/-- The fault of a burst's error, if it is the first of its operation and counts. -/
def State.noteError (s : State) (first : Prop) [Decidable first] (addr : Addr) : State :=
  if first then s.raiseFault .writebackError 16 addr none else s

theorem noteError_frame (s : State) (first : Prop) [Decidable first] (addr : Addr) :
    (s.noteError first addr).ports = s.ports ∧ (s.noteError first addr).due = s.due := by
  unfold State.noteError
  split
  · obtain ⟨_, _, _, _, _, _, frame⟩ := raiseFault_frame s .writebackError 16 addr none
    rw [frame]
    exact ⟨rfl, rfl⟩
  · exact ⟨rfl, rfl⟩

/-- A fault of the memory class lists the memory fault record and the status block at most (R168, R169). -/
theorem raiseFault_listed_other {k : FaultKind} (memory : k.memoryClass = true) {id : RecordId} (record : id ≠ .memoryFault)
    (status : id ≠ .status) (s : State) (n : Nat) (addr : Addr) (w : Option (Fin 16)) :
    (s.raiseFault k n addr w).listed id = s.listed id := by
  have recorded (r : FaultRecord) : (s.setFaultRecord true r).listed id = true ↔ s.listed id = true :=
    (State.listIf_listed_iff { s with memoryFault := r } _ .memoryFault id).trans (or_iff_left fun h => record h.2)
  have counted (u : State) (met : Bool) : (u.countLostFault met).listed id = true ↔ u.listed id = true := by
    unfold State.countLostFault
    split
    · exact (State.listIf_listed_iff { u with lostFaults := bump u.lostFaults } _ .status id).trans
        (or_iff_left fun h => status h.2)
    · rfl
  have raised (u : State) (reason : Nat) : (u.raiseEvent .fault n 0 reason).listed id = true ↔ u.listed id = true :=
    (raiseEvent_listed_iff u .fault n 0 reason id).trans (or_iff_left fun h => status h.2)
  unfold State.raiseFault
  rw [memory, Bool.eq_iff_iff]
  exact (raised _ _).trans ((counted _ _).trans (recorded _))

theorem noteError_listed (s : State) (first : Prop) [Decidable first] (addr : Addr) {id : RecordId}
    (record : id ≠ .memoryFault) (status : id ≠ .status) : (s.noteError first addr).listed id = s.listed id := by
  unfold State.noteError
  split
  · exact raiseFault_listed_other rfl record status s 16 addr none
  · rfl

/-! ## The image write-out (R166) -/

theorem exec_imageWriteOutBurstAnswer {s : State} {o : WriteOut} {k : Fin 80} (rest : s.AtRest)
    (running : s.writeOut = some o) (left : k.val ∈ o.left) (ok : Bool) :
    exec (.imageWriteOutBurstAnswer k ok) s = .next (s.answerWriteOut o k.val ok).settle := by
  show execImageWriteOutBurstAnswer k ok s = _
  unfold execImageWriteOutBurstAnswer
  rw [catchUp_rest s rest, running]
  exact congrArg done (if_pos (List.contains_iff_mem.mpr left))

theorem answerWriteOut_eq (s : State) (o : WriteOut) (k : Nat) (ok : Bool) : s.answerWriteOut o k ok =
    if o.left.erase k = [] then
      (s.noteError (ok = false ∧ o.failed = false) (s.regionBase + BitVec.ofNat 32 (64 * k))).endWriteOut o.soft
    else { s.noteError (ok = false ∧ o.failed = false) (s.regionBase + BitVec.ofNat 32 (64 * k)) with
      writeOut := some { o with left := o.left.erase k, failed := o.failed || !ok } } := by
  have noted : (if !ok && !o.failed then
      s.raiseFault .writebackError Config.ownNumber (s.imageAddr k) none else s) =
      s.noteError (ok = false ∧ o.failed = false) (s.regionBase + BitVec.ofNat 32 (64 * k)) :=
    if_congr (by simp) rfl rfl
  unfold State.answerWriteOut
  rw [noted]
  exact if_congr List.isEmpty_iff rfl rfl

/-- The part when the last burst has been answered, before the accesses that the write-out held go on. -/
def State.initialised (s : State) (soft : Bool) : State :=
  (({ s with ready := true, writeOut := none } : State).list .status).raiseEvent .initDone (if soft then 1 else 0) 0 0

theorem initialised_frame (s : State) (soft : Bool) :
    (s.initialised soft).ports = s.ports ∧ (s.initialised soft).due = s.due := by
  unfold State.initialised
  obtain ⟨_, _, _, frame⟩ := raiseEvent_frame (({ s with ready := true, writeOut := none } : State).list .status) .initDone
    (if soft then 1 else 0) 0 0
  rw [frame]
  exact ⟨rfl, rfl⟩

theorem endWriteOut_eq (s : State) (soft : Bool) : s.endWriteOut soft =
    (List.finRange 16).foldl (State.freeHeld .heldWriteOut) (s.initialised soft) := by
  rw [← releaseWriteOut_eq_freeHeld]
  rfl

/-- Settles O17: the last answer ends the write-out and walks through the masters in ascending order. -/
theorem imageWriteOutAnswered : Obligations.ImageWriteOutAnswered := by
  intro s o k ok rest running member f left
  have runs := exec_imageWriteOutBurstAnswer rest running member ok
  rw [answerWriteOut_eq] at runs
  obtain ⟨ports, due⟩ := noteError_frame s (ok = false ∧ o.failed = false) (s.regionBase + BitVec.ofNat 32 (64 * k.val))
  refine ⟨fun more => runs.trans ?_, fun last => ⟨_, runs, ?_⟩⟩
  · rw [if_neg more]
    rfl
  · obtain ⟨ports', due'⟩ := initialised_frame f o.soft
    have portsKept : (f.initialised o.soft).ports = s.ports := ports'.trans ports
    have stages (m : Fin 16) : (f.initialised o.soft).stage m = s.stage m := by rw [State.stage, portsKept, State.stage]
    have nothing : (f.initialised o.soft).due = [] := (due'.trans due).trans rest.1
    rw [if_pos last, endWriteOut_eq]
    refine ⟨foldl_freeHeld_frame _ _ _, ?_, fun m => ?_⟩
    · refine (foldl_freeHeld_due .heldWriteOut (List.nodup_finRange 16) (f.initialised o.soft)).trans ?_
      simp only [nothing, stages, List.nil_append]
    · refine (foldl_finRange_ports (freeHeld_ports .heldWriteOut) (f.initialised o.soft) m).trans ?_
      rw [portsKept]
      rfl

/-! ## The end of a write-back (R160, R162) -/

/-- A master's place at the system port once a write-back of the record has completed: a read that waits for one waits for
one less, and goes to memory after the last. -/
def MasterPort.recordWritten (id : RecordId) (m : Fin 16) (p : MasterPort) : MasterPort :=
  match p.queue.head?, p.stage with
  | some a, .heldRecords ids =>
    if id ∈ ids then
      { p with stage := if ids.erase id = [] then
          .issued { hit := none, port := onBehalf m.val a a.addr, treat := .plain, answer := none, clip := .absent,
                    changed := [] }
        else .heldRecords (ids.erase id) }
    else p
  | _, _ => p

section
variable {p : MasterPort} {id : RecordId} {m : Fin 16}

theorem recordWritten_waiting {a : Access} {ids : List RecordId} (front : p.queue.head? = some a)
    (held : p.stage = .heldRecords ids) (waits : id ∈ ids) : p.recordWritten id m =
      { p with stage := if ids.erase id = [] then
          .issued { hit := none, port := onBehalf m.val a a.addr, treat := .plain, answer := none, clip := .absent,
                    changed := [] }
        else .heldRecords (ids.erase id) } := by
  unfold MasterPort.recordWritten
  rw [front, held]
  exact if_pos waits

theorem recordWritten_other (other : ∀ ids, p.stage = .heldRecords ids → id ∉ ids) : p.recordWritten id m = p := by
  unfold MasterPort.recordWritten
  split
  · next ids _ held => exact if_neg (other ids held)
  · rfl

theorem recordWritten_empty (empty : p.queue.head? = none) : p.recordWritten id m = p := by
  unfold MasterPort.recordWritten
  rw [empty]

/-- What a write-back's end does to a master's place: nothing, or it moves a read that waited for the record. -/
theorem recordWritten_cases (id : RecordId) (m : Fin 16) (p : MasterPort) : p.recordWritten id m = p ∨
    ∃ a ids, p.queue.head? = some a ∧ p.stage = .heldRecords ids ∧ id ∈ ids := by
  cases front : p.queue.head? with
  | none => exact .inl (recordWritten_empty front)
  | some a =>
    by_cases waits : ∃ ids, p.stage = .heldRecords ids ∧ id ∈ ids
    · obtain ⟨ids, held, waits⟩ := waits
      exact .inr ⟨a, ids, rfl, held, waits⟩
    · exact .inl (recordWritten_other fun ids held member => waits ⟨ids, held, member⟩)

theorem recordWritten_queue : (p.recordWritten id m).queue = p.queue := by
  rcases recordWritten_cases id m p with same | ⟨a, ids, front, held, waits⟩
  · rw [same]
  · rw [recordWritten_waiting front held waits]

theorem recordWritten_heldWriteBack : (p.recordWritten id m).stage = .heldWriteBack ↔ p.stage = .heldWriteBack := by
  rcases recordWritten_cases id m p with same | ⟨a, ids, front, held, waits⟩
  · rw [same]
  · rw [recordWritten_waiting front held waits, held]
    dsimp only
    split <;> exact iff_of_false nofun nofun

end

theorem releaseRecord_ports (id : RecordId) (s : State) (x m : Fin 16) : (State.releaseRecord id s x).ports.get m =
    if x = m then (s.ports.get m).recordWritten id m else s.ports.get m := by
  have kept (same : (s.ports.get x).recordWritten id x = s.ports.get x) :
      s.ports.get m = if x = m then (s.ports.get m).recordWritten id m else s.ports.get m := by
    split
    · next here =>
      subst here
      exact same.symm
    · rfl
  have moved (st : Stage) (goes : (s.ports.get x).recordWritten id x = { s.ports.get x with stage := st }) :
      (s.setStage x st).ports.get m = if x = m then (s.ports.get m).recordWritten id m else s.ports.get m := by
    refine (setAt_get s.ports x m { s.ports.get x with stage := st }).trans ?_
    split
    · next here =>
      subst here
      exact goes.symm
    · rfl
  unfold State.releaseRecord
  split
  · next a ids front held =>
    split
    · next waits =>
      have written := recordWritten_waiting (m := x) front held (List.contains_iff_mem.mp waits)
      split
      · next last => exact moved _ (written.trans (by rw [if_pos (List.isEmpty_iff.mp last)]))
      · next more => exact moved _ (written.trans (by rw [if_neg (mt List.isEmpty_iff.mpr more)]))
    · next free =>
      refine kept (recordWritten_other fun ids' held' member => free ?_)
      obtain rfl : ids = ids' := Stage.heldRecords.inj (held.symm.trans held')
      exact List.contains_iff_mem.mpr member
  · next unheld =>
    rcases recordWritten_cases id x (s.ports.get x) with same | ⟨a, ids, front, held, -⟩
    · exact kept same
    · exact absurd held (unheld a ids front)

theorem foldl_releaseRecord_frame (id : RecordId) (l : List (Fin 16)) : ∀ s : State,
    l.foldl (State.releaseRecord id) s = { s with ports := (l.foldl (State.releaseRecord id) s).ports } := by
  induction l with
  | nil => exact fun _ => rfl
  | cons x l ih =>
    intro s
    have step : State.releaseRecord id s x = { s with ports := (State.releaseRecord id s x).ports } := by
      unfold State.releaseRecord
      repeat' split
      all_goals rfl
    rw [List.foldl_cons]
    refine (ih _).trans ?_
    rw [step]

/-- The end of a write-back reaches the masters' places, each in turn, and what is due. -/
theorem endWriteBack_spec {s : State} (b : WriteBack) (rest : s.due = []) :
    s.endWriteBack b = { s with
      writeBack := none, ports := (s.endWriteBack b).ports, due := (s.endWriteBack b).due } ∧
    (s.endWriteBack b).due = ((List.finRange 16).filter (fun m => s.stage m = .heldWriteBack)).map Due.hand ∧
    ∀ m, (s.endWriteBack b).ports.get m = ((s.ports.get m).recordWritten b.id m).freed .heldWriteBack := by
  have ended : s.endWriteBack b = (List.finRange 16).foldl (State.freeHeld .heldWriteBack)
      ((List.finRange 16).foldl (State.releaseRecord b.id) { s with writeBack := none }) := by
    rw [← releaseWrite_eq_freeHeld]
    rfl
  have frame := foldl_releaseRecord_frame b.id (List.finRange 16) { s with writeBack := none }
  have ports (m : Fin 16) := foldl_finRange_ports (releaseRecord_ports b.id) { s with writeBack := none } m
  rw [ended]
  generalize (List.finRange 16).foldl (State.releaseRecord b.id) { s with writeBack := none } = u at frame ports
  have nothing : u.due = [] := by rw [frame]; exact rest
  have writes (m : Fin 16) : u.stage m = .heldWriteBack ↔ s.stage m = .heldWriteBack := by
    rw [State.stage, ports]
    exact recordWritten_heldWriteBack
  refine ⟨?_, ?_, fun m => ?_⟩
  · refine (foldl_freeHeld_frame .heldWriteBack (List.finRange 16) u).trans ?_
    generalize (List.finRange 16).foldl (State.freeHeld .heldWriteBack) u = t
    rw [frame]
  · rw [foldl_freeHeld_due _ (List.nodup_finRange 16), nothing, List.nil_append]
    simp only [writes]
  · rw [foldl_finRange_ports (freeHeld_ports .heldWriteBack), ports]

/-! ## The answer to a burst of a write-back (R161) -/

theorem exec_writeBackBurstAnswer {s : State} {b : WriteBack} {k : Fin 2} (rest : s.AtRest)
    (flying : s.writeBack = some b) (left : k.val ∈ b.left) (ok : Bool) :
    exec (.writeBackBurstAnswer k ok) s = .next (s.answerWriteBack b k.val ok).settle := by
  show execWriteBackBurstAnswer k ok s = _
  unfold execWriteBackBurstAnswer
  rw [catchUp_rest s rest, flying]
  exact congrArg done (if_pos (List.contains_iff_mem.mpr left))

theorem answerWriteBack_eq (s : State) {b : WriteBack} {k : Nat} {p : MemAccess} (burst : b.bursts[k]? = some p) (ok : Bool) :
    s.answerWriteBack b k ok =
      if b.left.erase k = [] then
        (s.noteError (ok = false ∧ b.failed = false ∧ b.dropped = false) p.addr).endWriteBack b
      else { s.noteError (ok = false ∧ b.failed = false ∧ b.dropped = false) p.addr with
        writeBack := some { b with left := b.left.erase k, failed := b.failed || !ok } } := by
  have addr : b.burstAddr k = p.addr := by rw [WriteBack.burstAddr, burst]
  have noted : (if !ok && !b.failed && !b.dropped then
      s.raiseFault .writebackError Config.ownNumber (b.burstAddr k) none else s) =
      s.noteError (ok = false ∧ b.failed = false ∧ b.dropped = false) p.addr := by
    rw [addr]
    exact if_congr (by simp [and_assoc]) rfl rfl
  unfold State.answerWriteBack
  dsimp only
  rw [noted]
  exact if_congr List.isEmpty_iff rfl rfl

/-- Settles O19: the last answer ends the write-back, for the reads that waited for the record and then for the writes. -/
theorem writeBackAnswered : Obligations.WriteBackAnswered := by
  intro s b k ok p rest flying member burst f left
  have runs := exec_writeBackBurstAnswer rest flying member ok
  rw [answerWriteBack_eq s burst] at runs
  obtain ⟨ports, due⟩ := noteError_frame s (ok = false ∧ b.failed = false ∧ b.dropped = false) p.addr
  refine ⟨noteError_listed s _ p.addr, fun more => runs.trans ?_, fun last => ?_⟩
  · rw [if_neg more]
    rfl
  rw [if_pos last] at runs
  have portsKept : f.ports = s.ports := ports
  have stages (m : Fin 16) : f.stage m = s.stage m := by rw [State.stage, portsKept, State.stage]
  obtain ⟨frame, handed, places⟩ := endWriteBack_spec b (show f.due = [] from due.trans rest.1)
  simp only [stages] at handed
  refine ⟨f.endWriteBack b, runs, frame, handed, fun m => ?_⟩
  have place : (f.endWriteBack b).ports.get m = ((s.ports.get m).recordWritten b.id m).freed .heldWriteBack := by
    rw [places m, portsKept]
  have stage : (f.endWriteBack b).stage m = if ((s.ports.get m).recordWritten b.id m).stage = .heldWriteBack then
      .taken .control else ((s.ports.get m).recordWritten b.id m).stage := congrArg MasterPort.stage place
  refine ⟨(congrArg MasterPort.queue place).trans recordWritten_queue, fun held => ?_, fun a ids front held waits => ?_,
    fun free other => ?_⟩
  · exact stage.trans (if_pos (recordWritten_heldWriteBack.mpr held))
  · rw [recordWritten_waiting front held waits] at stage
    refine ⟨fun more => ?_, fun noMore => ?_⟩
    · rw [stage, if_neg more]
      rfl
    · rw [stage, if_pos noMore]
      rfl
  · rw [recordWritten_other other] at stage
    exact stage.trans (if_neg free)

end Sys2Proof.Machine
end

section
/-! The start of a write-back and the bytes that its bursts carry (R159, R160; logs 18, 41). -/

namespace Sys2Proof.Machine

/-! ## The host write that a write-back follows (log 18) -/

theorem Stage.changes_iff (id : RecordId) (st : Stage) : st.changes id = true ↔ ∃ i, st = .issued i ∧ id ∈ i.changed := by
  cases st with
  | issued i => exact List.contains_iff_mem.trans ⟨fun member => ⟨i, rfl, member⟩, fun ⟨_, same, member⟩ =>
      Stage.issued.inj same ▸ member⟩
  | waiting | taken | heldWriteOut | heldWriteBack | heldRecords | heldSlot | heldPending | translating =>
    exact iff_of_false nofun fun ⟨_, same, _⟩ => nomatch same

theorem awaitsWrite_iff (s : State) (id : RecordId) : s.awaitsWrite id = true ↔
    ∃ m i, s.stage m = .issued i ∧ id ∈ i.changed := by
  unfold State.awaitsWrite
  rw [List.any_eq_true]
  simp only [List.mem_finRange, true_and, Stage.changes_iff]

/-! ## The start (R160; log 41) -/

theorem exec_writeBackStart {s : State} (rest : s.AtRest) : exec .writeBackStart s = .next s.startWriteBack.settle := by
  show done s.catchUp.startWriteBack = _
  rw [catchUp_rest s rest]
  rfl

/-- The write-back of a record just after its start, the record off the list. -/
def State.firstBack (s : State) (r : ListedRecord) (rest : List ListedRecord) : WriteBack :=
  let bursts := ({ s with writeBackList := rest } : State).backBursts r
  { id := r.id, hostBytes := r.hostBytes, bursts := bursts, left := List.range bursts.length, failed := false,
    dropped := false }

theorem startWriteBack_eq {s : State} {r : ListedRecord} {rest : List ListedRecord} (noOut : s.writeOut = none)
    (noBack : s.writeBack = none) (list : s.writeBackList = r :: rest) : s.startWriteBack =
    if s.awaitsWrite r.id then s else { s with writeBackList := rest, writeBack := some (s.firstBack r rest) } := by
  unfold State.startWriteBack
  rw [noOut, noBack, list]
  rfl

/-! ## The bytes to be written (R159) -/

theorem ListedRecord.mem_offsets (r : ListedRecord) (o : Nat) : o ∈ r.offsets ↔ o < recordSize r.id ∧ r.writes o = true := by
  simp [ListedRecord.offsets]

theorem ListedRecord.writes_iff (r : ListedRecord) (o : Nat) :
    r.writes o = true ↔ hostOwned r.id o = false ∨ o ∈ r.hostBytes := by
  simp [ListedRecord.writes]

theorem ListedRecord.offsets_ascend (r : ListedRecord) : r.offsets.Pairwise (· < ·) :=
  List.pairwise_lt_range.filter _

/-- A record is a whole number of words, and only a zone record is longer than 16. -/
theorem recordSize_words (id : RecordId) : recordSize id % 4 = 0 ∧ recordSize id ≤ 128 ∧
    (64 < recordSize id → ∃ z, id = .zone z) := by
  cases id <;> simp [recordSize]

/-! ## One burst -/

section
variable (s : State) (r : ListedRecord) (k n : Nat)

theorem backBurst_length : (s.backBurst r k n).be.length = n ∧ (s.backBurst r k n).data.length = n := by
  simp [State.backBurst]

theorem backBurst_addr (i : Nat) : (s.backBurst r k n).addr + BitVec.ofNat 32 (4 * i) =
    s.regionBase + BitVec.ofNat 32 (recordOffset r.id + 4 * (k + i)) := by
  show s.regionBase + BitVec.ofNat 32 (recordOffset r.id + 4 * k) + BitVec.ofNat 32 (4 * i) = _
  rw [BitVec.add_assoc, ← BitVec.ofNat_add, Nat.mul_add, Nat.add_assoc]

theorem ListedRecord.enables_getLsbD {j : Nat} (low : j < 4) : (r.enables k).getLsbD j = r.writes (4 * k + j) := by
  rw [Bool.eq_iff_iff, ListedRecord.enables, BitVec.getLsbD_ofNat, decide_eq_true low, Bool.true_and, testBit_maskOf]
  exact ⟨fun ⟨_, holds, here⟩ => here ▸ holds, fun holds => ⟨⟨j, low⟩, holds, rfl⟩⟩

theorem recordWord_byte (v : RegionView) (id : RecordId) {j : Nat} (low : j < 4) :
    (recordWord v id k).extractLsb' (8 * j) 8 = recordByte v id (4 * k + j) := by
  obtain ⟨byte0, byte1, byte2, byte3⟩ := append_bytes (recordByte v id (4 * k + 3)) (recordByte v id (4 * k + 2))
    (recordByte v id (4 * k + 1)) (recordByte v id (4 * k))
  interval_cases j
  · exact byte0
  · exact byte1
  · exact byte2
  · exact byte3

variable {n} {i : Nat} (within : i < n)
include within

theorem backBurst_be : (s.backBurst r k n).be.getD i 0 = r.enables (k + i) := by
  simp [State.backBurst, within]

theorem backBurst_data : (s.backBurst r k n).data.getD i 0 = recordWord s.view r.id (k + i) := by
  simp [State.backBurst, within]

end

/-! ## The words that the bursts cover -/

/-- The bursts over `count` words of a record from word `first` (R160). -/
def State.splitBursts (s : State) (r : ListedRecord) (first count : Nat) : List MemAccess :=
  if count ≤ 16 then [s.backBurst r first count]
  else [s.backBurst r first 16, s.backBurst r (first + 16) (count - 16)]

/-- The bursts go from the first to the last word that holds a byte to be written. -/
theorem backBursts_span (s : State) (r : ListedRecord) : (r.offsets = [] ∧ s.backBursts r = []) ∨
    ∃ first last, (∀ o ∈ r.offsets, first ≤ o / 4 ∧ o / 4 ≤ last) ∧ (∃ o ∈ r.offsets, o / 4 = last) ∧
      s.backBursts r = s.splitBursts r first (last + 1 - first) := by
  have ascend := r.offsets_ascend
  unfold State.backBursts
  cases offsets : r.offsets with
  | nil => exact .inl ⟨rfl, rfl⟩
  | cons x l =>
    rw [offsets] at ascend
    have nonempty : x :: l ≠ [] := List.cons_ne_nil x l
    have final : (x :: l).getLast?.getD x = (x :: l).getLast nonempty := by
      rw [List.getLast?_eq_some_getLast nonempty, Option.getD_some]
    refine .inr ⟨x / 4, (x :: l).getLast nonempty / 4, fun o member => ⟨?_, ?_⟩, ⟨_, List.getLast_mem nonempty, rfl⟩, ?_⟩
    · have least : x ≤ o := (List.mem_cons.mp member).elim (fun e => e.ge)
        fun behind => (List.rel_of_pairwise_cons ascend behind).le
      exact Nat.div_le_div_right least
    · exact Nat.div_le_div_right ((ascend.imp Nat.le_of_lt).rel_getLast member)
    · dsimp only
      rw [final]
      rfl

theorem mem_splitBursts {s : State} {r : ListedRecord} {first count : Nat} {p : MemAccess} (small : count ≤ 32)
    (member : p ∈ s.splitBursts r first count) : ∃ k n, p = s.backBurst r k n ∧ n ≤ 16 ∧ k + n ≤ first + count := by
  unfold State.splitBursts at member
  split at member
  · next short => exact ⟨first, count, List.mem_singleton.mp member, short, le_rfl⟩
  · next long =>
    rcases List.mem_cons.mp member with here | behind
    · exact ⟨first, 16, here, le_rfl, by omega⟩
    · exact ⟨first + 16, count - 16, List.mem_singleton.mp behind, by omega, by omega⟩

/-- Every word of the span is carried by one of the bursts. -/
theorem splitBursts_cover (s : State) (r : ListedRecord) {first count w : Nat} (low : first ≤ w) (high : w < first + count) :
    ∃ k n, s.backBurst r k n ∈ s.splitBursts r first count ∧ k ≤ w ∧ w < k + n := by
  unfold State.splitBursts
  split
  · exact ⟨first, count, List.mem_cons_self, low, high⟩
  · by_cases front : w < first + 16
    · exact ⟨first, 16, List.mem_cons_self, low, front⟩
    · exact ⟨first + 16, count - 16, List.mem_cons_of_mem _ List.mem_cons_self, by omega, by omega⟩

/-- A burst carries at most 16 words, all within the record. -/
theorem mem_backBursts {s : State} {r : ListedRecord} {p : MemAccess} (member : p ∈ s.backBursts r) :
    ∃ k n, p = s.backBurst r k n ∧ n ≤ 16 ∧ 4 * (k + n) ≤ recordSize r.id := by
  obtain ⟨words, small, -⟩ := recordSize_words r.id
  rcases backBursts_span s r with ⟨-, empty⟩ | ⟨first, last, bounds, ⟨o, ho, rfl⟩, split⟩
  · rw [empty] at member
    cases member
  · have inside := ((r.mem_offsets o).mp ho).1
    have order := (bounds o ho).1
    rw [split] at member
    obtain ⟨k, n, same, short, within⟩ := mem_splitBursts (by omega) member
    exact ⟨k, n, same, short, by omega⟩

/-- Every word that holds a byte to be written is carried by one of the bursts. -/
theorem backBursts_cover (s : State) {r : ListedRecord} {o : Nat} (inside : o < recordSize r.id) (writes : r.writes o = true) :
    ∃ k n, s.backBurst r k n ∈ s.backBursts r ∧ k ≤ o / 4 ∧ o / 4 < k + n := by
  have member := (r.mem_offsets o).mpr ⟨inside, writes⟩
  rcases backBursts_span s r with ⟨empty, -⟩ | ⟨first, last, bounds, -, split⟩
  · rw [empty] at member
    cases member
  · obtain ⟨low, high⟩ := bounds o member
    rw [split]
    exact splitBursts_cover s r low (by omega)

theorem backBursts_length (s : State) (r : ListedRecord) : (s.backBursts r).length ≤ 2 ∧
    ((s.backBursts r).length = 2 → 64 < recordSize r.id) := by
  rcases backBursts_span s r with ⟨-, empty⟩ | ⟨first, last, -, ⟨o, ho, rfl⟩, split⟩
  · rw [empty]
    exact ⟨Nat.zero_le 2, nofun⟩
  · have inside := ((r.mem_offsets o).mp ho).1
    rw [split, State.splitBursts]
    split
    · exact ⟨Nat.le_succ 1, nofun⟩
    · exact ⟨le_rfl, fun _ => by omega⟩

/-- Settles O18: the start by the list, and the bytes of the bursts word by word. -/
theorem writeBackStarts : Obligations.WriteBackStarts := by
  refine ⟨fun s r rest atRest noOut noBack list => ⟨fun awaits => ?_, fun free => ⟨s.firstBack r rest, ?_, rfl, rfl, rfl, rfl,
    rfl, rfl⟩⟩, awaitsWrite_iff, fun s r => ⟨fun p member => ?_, ?_, fun o inside writes => ?_,
    fun p member i within j low enabled => ?_, r.writes_iff⟩⟩
  · rw [exec_writeBackStart atRest, startWriteBack_eq noOut noBack list, if_pos awaits]
  · rw [exec_writeBackStart atRest, startWriteBack_eq noOut noBack list, if_neg (ne_true_of_eq_false free)]
  · obtain ⟨k, n, rfl, short, -⟩ := mem_backBursts member
    obtain ⟨words, values⟩ := backBurst_length s r k n
    exact ⟨rfl, rfl, words.trans_le short, values.trans words.symm⟩
  · obtain ⟨few, two⟩ := backBursts_length s r
    exact ⟨few, fun both => (recordSize_words r.id).2.2 (two both)⟩
  · obtain ⟨k, n, member, low, high⟩ := backBursts_cover s inside writes
    obtain ⟨i, place⟩ := Nat.exists_eq_add_of_le low
    have within : i < n := by omega
    have byte : 4 * (k + i) + o % 4 = o := by omega
    have bit : o % 4 < 4 := Nat.mod_lt _ (by decide)
    refine ⟨_, member, i, (backBurst_length s r k n).1.symm ▸ within, ?_, ?_, ?_⟩
    · rw [backBurst_addr]
      congr 2
      omega
    · rw [backBurst_be s r k within, r.enables_getLsbD _ bit, byte]
      exact writes
    · rw [backBurst_data s r k within, recordWord_byte _ _ _ bit, byte]
  · obtain ⟨k, n, rfl, -, inside⟩ := mem_backBursts member
    have within' : i < n := (backBurst_length s r k n).1 ▸ within
    rw [backBurst_be s r k within', r.enables_getLsbD _ low] at enabled
    refine ⟨4 * (k + i) + j, by omega, enabled, by omega, ?_⟩
    rw [backBurst_addr]
    congr 2
    omega

end Sys2Proof.Machine
end

section
/-! The values that the copies of the tables take from written bytes (R155, R158; log 20). -/

namespace Sys2Proof.Machine

/-! ## Numbers of two and four bytes (R155) -/

theorem toNat_append_byte {n : Nat} (x : BitVec n) (b : Byte) : (x ++ b).toNat = 256 * x.toNat + b.toNat := by
  rw [BitVec.toNat_append, Nat.shiftLeft_eq, Nat.mul_comm]
  exact (Nat.two_pow_add_eq_or_of_lt b.isLt _).symm

theorem read16_eq (raw : Nat → Byte) (o : Nat) : read16 raw o = (raw (o + 1) ++ raw o).toNat := by
  rw [toNat_append_byte]
  exact Nat.add_comm _ _

theorem read32_eq (raw : Nat → Byte) (o : Nat) :
    read32 raw o = (raw (o + 3) ++ raw (o + 2) ++ raw (o + 1) ++ raw o).toNat := by
  rw [toNat_append_byte, toNat_append_byte, toNat_append_byte, read32, read16, read16, Nat.add_assoc o 2 1]
  omega

/-- An address held as its four bytes are written (log 20). -/
theorem ofNat_read32 (raw : Nat → Byte) (o : Nat) :
    BitVec.ofNat 32 (read32 raw o) = raw (o + 3) ++ raw (o + 2) ++ raw (o + 1) ++ raw o := by
  rw [read32_eq, BitVec.ofNat_toNat, BitVec.setWidth_eq]

theorem max_one_eq_ite (x : Nat) : max x 1 = if x = 0 then 1 else x :=
  (max_def_lt x 1).trans (if_congr Nat.lt_one_iff rfl rfl)

theorem max_one_byte (b : Byte) : max b.toNat 1 = if b = 0 then 1 else b.toNat :=
  (max_one_eq_ite b.toNat).trans (if_congr (BitVec.toNat_inj (y := 0)) rfl rfl)

theorem min_eq_ite (x top : Nat) : min x top = if top < x then top else x := (min_comm x top).trans (min_def_lt top x)

theorem flag_eq_decide (b : Byte) : (b != 0) = decide (b ≠ 0) := by
  rw [Bool.eq_iff_iff, bne_iff_ne, decide_eq_true_iff]

/-! ## Windows -/

theorem roleOfCode_needsFrames (code : Byte) :
    (roleOfCode code = some .uplink ∨ roleOfCode code = some .program) ↔ (code = 1 ∨ code = 3) := by
  unfold roleOfCode
  split
  · next isUplink => simp [isUplink]
  · next notUplink =>
    split
    · next isDownlink => simp [isDownlink]
    · split
      · next isProgram => simp [isProgram]
      · next notProgram => exact iff_of_false nofun (not_or.mpr ⟨notUplink, notProgram⟩)

/-- The size code is at most 14, and at least 2 for a role that needs four frames (R158). -/
theorem decodeWindow_size (raw : Nat → Byte) (e : WindowEntry) : (decodeWindow raw e).size =
    if 14 < (raw 3).toNat then 14
    else if (raw 3).toNat < 2 ∧ (raw 1 = 1 ∨ raw 1 = 3) then 2 else (raw 3).toNat := by
  show (if roleOfCode (raw 1) = some .uplink ∨ roleOfCode (raw 1) = some .program then max (min (raw 3).toNat 14) 2
    else min (raw 3).toNat 14) = _
  by_cases needs : raw 1 = 1 ∨ raw 1 = 3
  · rw [if_pos ((roleOfCode_needsFrames _).mpr needs)]
    simp only [needs, and_true]
    split_ifs <;> omega
  · rw [if_neg (mt (roleOfCode_needsFrames _).mp needs)]
    simp only [needs, and_false, if_false]
    split_ifs <;> omega

/-- The base is the written one aligned down to the window's length (R158). -/
theorem decodeWindow_base (raw : Nat → Byte) (e : WindowEntry) : (decodeWindow raw e).base.toNat =
    read32 raw 4 - read32 raw 4 % (1024 * 2 ^ (decodeWindow raw e).size) :=
  Nat.mod_eq_of_lt ((Nat.sub_le _ _).trans_lt (read32_lt raw 4))

/-- A number aligned down to a unit is a multiple of it, at most one unit below. -/
theorem aligned_down (x : Nat) {unit : Nat} (positive : 0 < unit) :
    (x - x % unit) % unit = 0 ∧ x - x % unit ≤ x ∧ x < x - x % unit + unit := by
  have below := Nat.mod_lt x positive
  have most := Nat.mod_le x unit
  exact ⟨Nat.sub_mod_eq_zero_of_mod_eq (Nat.mod_mod x unit).symm, Nat.sub_le _ _, by omega⟩

/-! ## Fields to be written back (R158, R159) -/

theorem mem_changedBytes_iff (spans : List (Nat × Nat)) (raw new : Nat → Byte) (o : Nat) : o ∈ changedBytes spans raw new ↔
    ∃ p ∈ spans, p.1 ≤ o ∧ o < p.1 + p.2 ∧ ∃ i, p.1 ≤ i ∧ i < p.1 + p.2 ∧ raw i ≠ new i := by
  have field (l : List Nat) : (o ∈ if l.all (fun i => raw i == new i) then [] else l) ↔ o ∈ l ∧ ∃ i ∈ l, raw i ≠ new i := by
    split
    · next same =>
      refine iff_of_false List.not_mem_nil fun ⟨_, i, hi, differs⟩ => differs ?_
      exact beq_iff_eq.mp (List.all_eq_true.mp same i hi)
    · next differs => exact (and_iff_left (by simpa using differs)).symm
  unfold changedBytes
  simp only [List.mem_flatMap, field, List.mem_range'_1, and_assoc]

/-- Settles O46: each record field by field. -/
theorem copiesNormalised : Obligations.CopiesNormalised := by
  refine ⟨fun raw e => ?_, fun raw e => ?_, fun raw e => ?_, fun raw r => ?_, fun raw e => ?_, mem_changedBytes_iff,
    fun s id dirty => rfl⟩
  · obtain ⟨multiple, below, near⟩ := aligned_down (read32 raw 4)
      (unit := 1024 * 2 ^ (decodeWindow raw e).size) (by positivity)
    rw [← decodeWindow_base raw e] at multiple below near
    rw [read32_eq] at below near
    refine ⟨?_, rfl, decodeWindow_size raw e, multiple, below, near⟩
    rw [← ofNat_read32 raw 12]
    rfl
  · refine ⟨?_, rfl⟩
    unfold decodeService
    simp only [read16_eq, read32_eq, flag_eq_decide, min_eq_ite, max_def_lt _ 20, max_one_byte]
  · refine ⟨?_, rfl⟩
    rw [← read16_eq raw 4, ← read16_eq raw 6]
    rfl
  · refine ⟨?_, rfl⟩
    rw [← read16_eq raw 2]
    rfl
  · unfold decodeCue
    simp only [ofNat_read32, read16_eq, flag_eq_decide, min_eq_ite, max_one_eq_ite]

end Sys2Proof.Machine
end

section
/-! Faults recorded and events judged (R168, R169, R171 to R173). -/

namespace Sys2Proof.Machine

/-! ## Records listed for their part-owned bytes (R159) -/

theorem State.listIf_eq (s : State) (b : Bool) (id : RecordId) : s.listIf b id =
    { s with writeBackList := if b = true then addListed id [] s.writeBackList else s.writeBackList } := by
  cases b <;> rfl

/-- With no host-owned bytes to be written, a record that stands on the list already is left as it stands. -/
theorem addListed_nil (id : RecordId) (l : List ListedRecord) :
    addListed id [] l = if id ∈ l.map (·.id) then l else l ++ [{ id := id, hostBytes := [] }] := by
  induction l with
  | nil => rfl
  | cons r l ih =>
    by_cases same : r.id = id
    · have kept : r.merge [] = r := congrArg (ListedRecord.mk r.id) (List.append_nil r.hostBytes)
      rw [addListed_cons_same same, kept, if_pos (same ▸ List.mem_cons_self)]
    · have ids : id ∈ (r :: l).map (·.id) ↔ id ∈ l.map (·.id) := by simp [Ne.symm same]
      rw [addListed_cons_other same, ih, if_congr ids rfl rfl]
      split <;> rfl

/-- The list keeps every record in its place as it stood, and takes only records without host-owned bytes behind them. -/
def GrowsBare (l l' : List ListedRecord) : Prop := l <+: l' ∧ ∀ x ∈ l', x ∈ l ∨ x.hostBytes = []

theorem GrowsBare.trans {l l' l'' : List ListedRecord} (h : GrowsBare l l') (k : GrowsBare l' l'') : GrowsBare l l'' :=
  ⟨h.1.trans k.1, fun x member => (k.2 x member).elim (h.2 x) .inr⟩

theorem addListed_growsBare (id : RecordId) (l : List ListedRecord) : GrowsBare l (addListed id [] l) := by
  rw [addListed_nil]
  split
  · exact ⟨List.prefix_rfl, fun _ => .inl⟩
  · refine ⟨List.prefix_append _ _, fun x member => (List.mem_append.mp member).imp_right fun new => ?_⟩
    rw [List.mem_singleton.mp new]

/-- The list once the record has been listed for its part-owned bytes, if `p` holds. -/
def listWhen (p : Prop) [Decidable p] (id : RecordId) (l : List ListedRecord) : List ListedRecord :=
  if p then addListed id [] l else l

section
variable (p : Prop) [Decidable p] (id : RecordId) (l : List ListedRecord)

theorem listWhen_growsBare : GrowsBare l (listWhen p id l) := by
  unfold listWhen
  split
  · exact addListed_growsBare id l
  · exact ⟨List.prefix_rfl, fun _ => .inl⟩

theorem mem_listWhen_ids (x : RecordId) : x ∈ (listWhen p id l).map (·.id) ↔ x ∈ l.map (·.id) ∨ (x = id ∧ p) := by
  unfold listWhen
  split
  · next holds =>
    rw [addListed_ids, and_iff_left holds]
    split
    · next listed => exact (or_iff_left_of_imp fun same => same ▸ listed).symm
    · exact List.mem_append.trans (or_congr_right List.mem_singleton)
  · next fails => exact (or_iff_left fun h => fails h.2).symm

end

/-! ## Events (R171 to R173) -/

theorem loseEvent_eq (s : State) : s.loseEvent = { s with
    lostEvents := min (s.lostEvents + 1) 65535
    writeBackList := if s.lostEvents < 65535 then addListed .status [] s.writeBackList else s.writeBackList } := by
  unfold State.loseEvent
  rw [State.listIf_eq]
  simp only [decide_eq_true_iff]
  rfl

section
variable {s : State} {k : EventKind} (object : Nat) (tag : Byte) (reason : Nat)

theorem raiseEvent_of_disabled (disabled : s.eventEnabled k = false) : s.raiseEvent k object tag reason = s :=
  if_neg (by simp [disabled])

theorem raiseEvent_of_room (enabled : s.eventEnabled k = true) (room : s.ringCount + s.events.length < 64) :
    s.raiseEvent k object tag reason =
      { s with events := s.events ++ [{ kind := k, object := object, tag := tag, reason := reason, tick := s.now }] } :=
  (if_pos enabled).trans (if_pos room)

theorem raiseEvent_of_full (enabled : s.eventEnabled k = true) (full : 64 ≤ s.ringCount + s.events.length) :
    s.raiseEvent k object tag reason = s.loseEvent :=
  (if_pos enabled).trans (if_neg (Nat.not_lt.mpr full))

end

/-- Settles O5: one case for each way in which `State.raiseEvent` judges the event. -/
theorem eventJudged : Obligations.EventJudged := fun s _ object tag reason =>
  ⟨raiseEvent_of_disabled object tag reason, raiseEvent_of_room object tag reason,
    fun enabled full => (raiseEvent_of_full object tag reason enabled full).trans (loseEvent_eq s)⟩

/-! ## The fault records (R168) -/

/-- The region's record of a fault class. -/
def faultRecordId (memoryClass : Bool) : RecordId := if memoryClass then .memoryFault else .accessFault

/-- A fault record is replaced, and listed where that changes it. -/
theorem setFaultRecord_eq (s : State) (c : Bool) (x : FaultRecord) : s.setFaultRecord c x = { s with
    accessFault := if c = true then s.accessFault else x
    memoryFault := if c = true then x else s.memoryFault
    writeBackList := if x ≠ s.faultRecord c then addListed (faultRecordId c) [] s.writeBackList else s.writeBackList } := by
  cases c with
  | false =>
    show ({ s with accessFault := x } : State).listIf (x != s.accessFault) .accessFault = _
    rw [State.listIf_eq, if_congr bne_iff_ne rfl rfl]
    rfl
  | true =>
    show ({ s with memoryFault := x } : State).listIf (x != s.memoryFault) .memoryFault = _
    rw [State.listIf_eq, if_congr bne_iff_ne rfl rfl]
    rfl

/-- The two classes have records of their own. -/
theorem setFaultRecord_faultRecord (s : State) (c : Bool) (x : FaultRecord) :
    (s.setFaultRecord c x).faultRecord c = x ∧ (s.setFaultRecord c x).faultRecord (!c) = s.faultRecord (!c) := by
  rw [setFaultRecord_eq]
  cases c <;> exact ⟨rfl, rfl⟩

/-! ## A fault raised (R169) -/

theorem countLostFault_eq (s : State) : s.countLostFault true = { s with
    lostFaults := min (s.lostFaults + 1) 65535
    writeBackList := if s.lostFaults < 65535 then addListed .status [] s.writeBackList else s.writeBackList } := by
  show ({ s with lostFaults := bump s.lostFaults } : State).listIf _ _ = _
  rw [State.listIf_eq]
  simp only [decide_eq_true_iff]
  rfl

/-- What a fault that meets the valid record of its class leaves before its event: LOST is set and the fault is counted. -/
def State.meetFault (s : State) (memoryClass : Bool) : State :=
  (s.setFaultRecord memoryClass { s.faultRecord memoryClass with lost := true }).countLostFault true

section
variable {s : State} {k : FaultKind} (master : Nat) (addr : Addr) (window : Option (Fin 16))

theorem raiseFault_of_empty (empty : (s.faultRecord k.memoryClass).valid = false) : s.raiseFault k master addr window =
    (s.setFaultRecord k.memoryClass
      { valid := true, kind := some k, master := master, addr := addr, window := window, lost := false }).raiseEvent
      .fault master 0 k.code := by
  unfold State.raiseFault FaultRecord.takeFault
  dsimp only
  rw [empty]
  rfl

theorem raiseFault_of_valid (valid : (s.faultRecord k.memoryClass).valid = true) :
    s.raiseFault k master addr window = (s.meetFault k.memoryClass).raiseEvent .fault master 0 k.code := by
  unfold State.raiseFault FaultRecord.takeFault State.meetFault
  dsimp only
  rw [valid]
  rfl

end

section
variable (s : State) (c : Bool)

theorem meetFault_frame : s.meetFault c = { s with
    accessFault := (s.meetFault c).accessFault, memoryFault := (s.meetFault c).memoryFault,
    lostFaults := min (s.lostFaults + 1) 65535, writeBackList := (s.meetFault c).writeBackList } := by
  unfold State.meetFault
  rw [countLostFault_eq, setFaultRecord_eq]

theorem meetFault_faultRecord (d : Bool) : (s.meetFault c).faultRecord d =
    (s.setFaultRecord c { s.faultRecord c with lost := true }).faultRecord d := by
  unfold State.meetFault
  rw [countLostFault_eq]
  rfl

theorem meetFault_writeBackList : (s.meetFault c).writeBackList = listWhen (s.lostFaults < 65535) .status
    (listWhen ({ s.faultRecord c with lost := true } ≠ s.faultRecord c) (faultRecordId c) s.writeBackList) := by
  unfold State.meetFault
  rw [countLostFault_eq, setFaultRecord_eq]
  rfl

theorem meetFault_growsBare : GrowsBare s.writeBackList (s.meetFault c).writeBackList := by
  rw [meetFault_writeBackList]
  exact (listWhen_growsBare _ _ _).trans (listWhen_growsBare _ _ _)

/-- Setting LOST changes a record in which it was not set. -/
theorem FaultRecord.lose_ne_iff (r : FaultRecord) : { r with lost := true } ≠ r ↔ r.lost = false := by
  rw [← Bool.not_eq_true, not_iff_not]
  exact ⟨fun same => same ▸ rfl, fun lost => congrArg (fun b => { r with lost := b }) lost.symm⟩

theorem meetFault_listed_iff (id : RecordId) : (s.meetFault c).listed id = true ↔
    s.listed id = true ∨ (id = faultRecordId c ∧ (s.faultRecord c).lost = false) ∨
      (id = .status ∧ s.lostFaults < 65535) := by
  rw [State.listed_iff, State.listed_iff, meetFault_writeBackList, mem_listWhen_ids, mem_listWhen_ids,
    FaultRecord.lose_ne_iff, or_assoc]

end

/-- Settles O6: the record of the fault's class is empty, and is filled, or it is valid, and the fault is met by
`State.meetFault`. -/
theorem faultRecorded : Obligations.FaultRecorded := by
  intro s k master addr window r record
  refine ⟨raiseFault_of_empty master addr window, fun valid => ?_, fun c x changes => ?_⟩
  · obtain ⟨same, other⟩ := setFaultRecord_faultRecord s k.memoryClass { r with lost := true }
    obtain ⟨order, new⟩ := meetFault_growsBare s k.memoryClass
    exact ⟨s.meetFault k.memoryClass, raiseFault_of_valid master addr window valid, meetFault_frame s k.memoryClass,
      (meetFault_faultRecord s _ _).trans same, (meetFault_faultRecord s _ _).trans other, order,
      meetFault_listed_iff s k.memoryClass, new⟩
  · obtain ⟨same, other⟩ := setFaultRecord_faultRecord s c x
    exact ⟨same, other, (congrArg State.writeBackList (setFaultRecord_eq s c x)).trans (if_pos changes)⟩

end Sys2Proof.Machine
end

section
/-! Event writes, the attention line, and what the resets leave of the Fault and Event Unit (R174 to R177). -/

namespace Sys2Proof.Machine

/-! ## The event write (R174) -/

section
variable {s : State}

theorem exec_eventWriteIssue (rest : s.AtRest) : exec .eventWriteIssue s = .next s.issueEvent.settle := by
  show done s.catchUp.issueEvent = _
  rw [catchUp_rest s rest]
  rfl

theorem exec_eventWriteAnswer (rest : s.AtRest) (ok : Bool) :
    exec (.eventWriteAnswer ok) s = .next (s.answerEvent ok).settle := by
  show done (s.catchUp.answerEvent ok) = _
  rw [catchUp_rest s rest]
  rfl

theorem issueEvent_of_pending {e : Event} {rest : List Event} (pending : s.events = e :: rest)
    (noWriteOut : s.writeOut = none) (idle : s.eventInFlight = false) : s.issueEvent = { s with eventInFlight := true } := by
  unfold State.issueEvent
  rw [pending, noWriteOut, idle]

theorem eventAccess_of_inFlight {e : Event} {rest : List Event} (pending : s.events = e :: rest)
    (inFlight : s.eventInFlight = true) : s.eventAccess =
      [{ number := 16, dir := .write, addr := s.ringAddr s.producer, be := List.replicate 4 0xF, data := e.words }] := by
  unfold State.eventAccess
  rw [pending, inFlight]
  rfl

theorem answerEvent_ok (inFlight : s.eventInFlight = true) : s.answerEvent true = { s with
    events := s.events.tail, eventInFlight := false, producer := s.producer + 1,
    writeBackList := addListed .status [] s.writeBackList } := by
  unfold State.answerEvent
  rw [inFlight]
  rfl

theorem answerEvent_error (inFlight : s.eventInFlight = true) : s.answerEvent false = { s with
    events := s.events.tail, eventInFlight := false, lostEvents := min (s.lostEvents + 1) 65535,
    writeBackList := if s.lostEvents < 65535 then addListed .status [] s.writeBackList else s.writeBackList } := by
  unfold State.answerEvent
  rw [inFlight]
  exact loseEvent_eq _

end

/-- Settles O20: the issue where an event is pending, and each answer to the write in flight. -/
theorem eventWritten : Obligations.EventWritten := by
  intro s e rest atRest pending
  have tail : s.events.tail = rest := congrArg List.tail pending
  refine ⟨fun noWriteOut idle => ⟨?_, ?_⟩, fun inFlight => ⟨?_, ?_⟩⟩
  · rw [exec_eventWriteIssue atRest, issueEvent_of_pending pending noWriteOut idle]
  · exact eventAccess_of_inFlight (s := { s with eventInFlight := true }) pending rfl
  · rw [exec_eventWriteAnswer atRest, answerEvent_ok inFlight, tail]
  · rw [exec_eventWriteAnswer atRest, answerEvent_error inFlight, tail]

/-! ## The attention line (R176) -/

theorem attention_of_indices {s t : State} (producer : t.producer = s.producer) (consumer : t.consumer = s.consumer) :
    t.attention = s.attention := by
  unfold State.attention State.ringCount
  rw [producer, consumer]

theorem Quiet.attention {s t : State} (h : Quiet s t) : t.attention = s.attention :=
  attention_of_indices h.producer h.consumer

theorem settle_attention (s : State) : s.settle.attention = s.attention := by
  obtain ⟨u, taken, retired, _, _, frame⟩ := settle_spec s
  exact attention_of_indices (by rw [frame, retired.frame]) (by rw [frame, retired.frame])

theorem attention_eq_decide_ne (s : State) : s.attention = decide (s.consumer ≠ s.producer) := by
  have indices : 0 < (s.producer - s.consumer).toNat ↔ s.consumer ≠ s.producer := by bv_omega
  exact decide_eq_decide.mpr indices

theorem attention_setConsumer (s : State) (c : BitVec 7) : (s.setConsumer c).attention = decide (c ≠ s.producer) :=
  (listIf_quiet { s with consumer := c } _ _).attention.trans (attention_eq_decide_ne _)

/-- An event record written at count 0 is one that software has not consumed. -/
theorem attention_answerEvent {s : State} (inFlight : s.eventInFlight = true) (empty : s.consumer = s.producer) :
    (s.answerEvent true).attention = true := by
  rw [answerEvent_ok inFlight, attention_eq_decide_ne, empty]
  exact decide_eq_true (by bv_omega)

/-- Settles O21: the line compares the two indices, which only an answered event write and a consumer write move. -/
theorem attentionFollowsCount : Obligations.AttentionFollowsCount := by
  intro s
  refine ⟨decide_eq_true_iff, fun rest inFlight => ⟨_, exec_eventWriteAnswer rest true, fun empty => ⟨?_, ?_⟩⟩,
    attention_setConsumer s, fun k o tag r => (raiseEvent_quiet s k o tag r).attention, (loseEvent_quiet s).attention,
    fun k n a w => (raiseFault_quiet s k n a w).attention, fun _ _ _ _ _ => rfl⟩
  · exact decide_eq_false (Nat.not_lt.mpr empty.le)
  · rw [settle_attention]
    exact attention_answerEvent inFlight (by bv_omega)

/-! ## The resets (R177) -/

theorem eventEnabled_hardReset (s : State) (k : EventKind) : s.hardReset.eventEnabled k = true := by
  show (BitVec.allOnes 14).getLsbD k.code = true
  rw [BitVec.getLsbD_allOnes]
  cases k <;> rfl

theorem Stage.isHeld_afterSoft (st : Stage) : st.afterSoft.isHeld = st.isHeld := by cases st <;> rfl

theorem reclassify_of_not_held {s : State} {m : Fin 16} (free : (s.stage m).isHeld = false) : s.reclassify m = s := by
  cases front : s.front m with
  | none =>
    unfold State.reclassify
    rw [front]
  | some a => rw [reclassify_eq front, if_pos free]

/-- Where no access is held, a soft reset classifies none anew (R27). -/
theorem softReset_of_none_held {s : State} (free : ∀ m, (s.stage m).isHeld = false) : s.softReset = s.softStarted := by
  refine List.foldl_fixed' (fun m => reclassify_of_not_held ?_) _
  have stage : s.softStarted.stage m = (s.stage m).afterSoft := congrArg MasterPort.stage (softStarted_ports s m)
  exact (congrArg Stage.isHeld stage).trans ((Stage.isHeld_afterSoft _).trans (free m))

/-- Settles O14: the reset values, and the values that a soft reset takes where it classifies no access anew. -/
theorem faultUnitResets : Obligations.FaultUnitResets := by
  refine ⟨fun s => ⟨s.hardReset, congrArg Host.Outcome.next (settle_hardReset s), rfl, rfl, rfl, rfl, rfl, rfl,
    eventEnabled_hardReset s, rfl, rfl, (attention_eq_decide_ne _).trans (decide_eq_false (not_not_intro rfl))⟩,
    fun s free => ?_⟩
  rw [softReset_of_none_held free]
  exact ⟨rfl, rfl, rfl, rfl, rfl, rfl, rfl, rfl, rfl, rfl⟩

end Sys2Proof.Machine
end

section
/-! The run of the part: a step is the command at the front of the queue or a tick (log 2), and a command stops only at an
access that the system port cannot carry (R16; log 36). -/

namespace Sys2Proof.Machine

/-! ## An idle step -/

theorem step_idle {s : State} (idle : s.pending = []) : step s = .next s.tick := by
  unfold step
  rw [idle]

theorem catchUp_catchUp (s : State) : s.catchUp.catchUp = s.catchUp := catchUp_rest _ (catchUp_atRest s)

/-- A tick begins with what the part does of itself, so a part that has caught up ticks as it would have before (log 2). -/
theorem tick_catchUp (s : State) : s.catchUp.tick = s.tick := by
  unfold State.tick
  rw [catchUp_catchUp]

theorem settle_timebase (s : State) : s.settle.timebase = s.timebase := by
  obtain ⟨_, _, retired, _, _, frame⟩ := settle_spec s
  rw [frame, retired.frame]

theorem settle_resetLow (s : State) : s.settle.resetLow = s.resetLow := by
  obtain ⟨_, _, retired, _, _, frame⟩ := settle_spec s
  rw [frame, retired.frame]

/-- At rest a tick settles and, while the reset is released, counts a microsecond (R165). -/
theorem tick_of_atRest {s : State} (rest : s.AtRest) :
    s.tick = if s.resetLow then s.settle else { s.settle with timebase := s.timebase + 1 } := by
  unfold State.tick
  dsimp only
  rw [catchUp_rest s rest, settle_resetLow, settle_timebase]

/-- Settles O1: with a command waiting by the definition of a step; with none a step is a tick, which catches up first. -/
theorem stepRunsFrontCommand : Obligations.StepRunsFrontCommand := by
  refine ⟨fun c rest s => rfl, fun s idle => ⟨?_, fun rest released => ?_, fun rest low => ?_⟩⟩
  · have stillIdle : s.catchUp.pending = [] := (catchUp_keeps s).pending.trans idle
    rw [step_idle idle, step_idle stillIdle, tick_catchUp]
  · rw [step_idle idle, tick_of_atRest rest, if_neg (Bool.eq_false_iff.mp released)]
  · rw [step_idle idle, tick_of_atRest rest, if_pos low]

/-! ## What stops a command -/

theorem execAccessRequest_of_malformed {a : Access} (malformed : a.wellFormed = false) (s : State) :
    execAccessRequest a s = .refused .malformedAccess := by
  unfold execAccessRequest
  rw [malformed]
  rfl

/-- The one command that can be malformed is the presenting of an access. -/
theorem eq_accessRequest_of_malformed {c : Instr} (malformed : c.wellFormed = false) :
    ∃ a : Access, c = .accessRequest a ∧ a.wellFormed = false := by
  cases c with
  | accessRequest a => exact ⟨a, rfl, malformed⟩
  | _ => cases malformed

/-- A well-formed command is done in every state: it has a next state. -/
theorem exec_next_of_wellFormed {c : Instr} (formed : c.wellFormed = true) (s : State) : ∃ t, exec c s = .next t := by
  cases c with
  | accessRequest a => exact ⟨(s.catchUp.present a).settle, if_pos formed⟩
  | _ => exact ⟨_, rfl⟩

/-- Settles O3: by the one command with a check of its operand; no command touches the queue of commands. -/
theorem onlyMalformedAccessStops : Obligations.OnlyMalformedAccessStops := by
  refine fun c s => ⟨fun formed => ?_, fun malformed => ?_⟩
  · obtain ⟨t, next⟩ := exec_next_of_wellFormed formed s
    exact ⟨t, next, (exec_keeps c s t next).pending⟩
  · obtain ⟨a, rfl, malformed⟩ := eq_accessRequest_of_malformed malformed
    exact execAccessRequest_of_malformed malformed s

end Sys2Proof.Machine
end

section
/-! The promises of Safety.lean right after reset: every table stands at its reset value (R33, R50, R80, R110, R138) and every
list is empty. -/

namespace Sys2Proof.Machine

theorem reset_ports (m : Fin 16) : State.reset.ports.get m = { queue := [], stage := .waiting } := Vector.get_replicate 16 _ m

theorem reset_slots (n : Fin 16) : State.reset.slots.get n = slotReset := Vector.get_replicate 16 slotReset n

theorem reset_zones (z : Fin 8) : State.reset.zones.get z = zoneReset := Vector.get_replicate 8 zoneReset z

theorem reset_cues (c : Fin 32) : State.reset.cues.get c = cueReset := Vector.get_replicate 32 cueReset c

theorem reset_boundSound : State.reset.BoundSound :=
  ⟨fun m => by rw [reset_ports]; exact Nat.zero_le 4, Nat.zero_le 8, Nat.zero_le 8⟩

theorem reset_slots_free (n : Fin 16) : (State.reset.slots.get n).state = .free := congrArg Slot.state (reset_slots n)

/-- Every slot is FREE and no allocation is pending, so no frame is held (R50, R80). -/
theorem reset_frameSound : State.reset.FrameSound :=
  ⟨fun n _ busy => absurd (reset_slots_free n) busy, fun _ _ held => absurd held List.not_mem_nil, .nil⟩

/-- A slot expects nothing, and is FREE (R50, R80). -/
theorem reset_expectSound : State.reset.ExpectSound := by
  refine fun n => ⟨?_, fun busy => absurd (reset_slots_free n) busy⟩
  rw [reset_slots]
  exact List.nodup_nil

theorem zoneReset_holds_none (c : Fin 32) : ¬zoneReset.Holds c := by
  rintro (⟨_, playing, _⟩ | ⟨_, suspended, _⟩)
  · cases playing
  · cases suspended

theorem reset_member (c : Fin 32) : State.reset.member c = false := by
  refine (State.member_eq_false_iff _ c).mpr ⟨?_, fun z => ?_⟩
  · rw [reset_cues]
    rfl
  · rw [reset_zones]
    exact zoneReset_holds_none c

theorem reset_cues_idle (c : Fin 32) : (State.reset.cues.get c).state = .idle := congrArg CueEntry.state (reset_cues c)

/-- Every cue is IDLE with level 0 and stands in no zone (R138). -/
theorem reset_cueSound : State.reset.CueSound := by
  refine ⟨fun c => ⟨?_, fun _ => reset_member c, fun live => absurd (reset_cues_idle c) live⟩,
    fun c _ live => absurd (reset_cues_idle c) live⟩
  rw [reset_cues]
  exact Nat.zero_le 7

/-- No zone has an active cue, and every stack is empty (R138). -/
theorem reset_stackSound : State.reset.StackSound := by
  refine (State.stackSound_iff _).mpr fun z => ?_
  rw [reset_zones]
  exact ⟨⟨nofun, .nil, nofun⟩, fun _ => rfl, rfl⟩

/-- Settles O59: the tables hold their reset values, each of which keeps its promise, and the rest is empty. -/
theorem promisesAtReset : Obligations.PromisesAtReset :=
  ⟨List.nodup_nil, fun _ => rfl, reset_boundSound, windows_reset, segments_reset, gains_reset, reset_frameSound,
    reset_expectSound, reset_cueSound, reset_stackSound⟩

end Sys2Proof.Machine
end
